-- ==== Sys2Proof/Word.lean ====
section
/-! DEFINITION. The quantities of the block: 16-bit words and addresses, 3-bit register indices (R6, R7). -/

namespace Sys2Proof

/-- A word: 16 bits, arithmetic modulo 2^16 (R6). -/
abbrev Word := BitVec 16

/-- A word address: 16 bits, so that every address is valid (R17, R34). -/
abbrev Addr := BitVec 16

/-- A register index: a 3-bit instruction field (R7, R10). -/
abbrev RegIdx := BitVec 3

/-- A byte of the host's program image; the block itself has no bytes (R38, R122). -/
abbrev Byte := BitVec 8

end Sys2Proof
end

