-- ==== Sys2Proof/Syntax.lean ====
section
/-! DEFINITION. The instructions: one constructor for each row of spec/opcode_table.json (R53, R54). A constructor holds every
bit of the word that the row does not fix, the ignored ones too (R57), so that decoding loses nothing (log entry 12). -/

namespace Sys2Proof

/-- The instructions of the core, and the four opcodes with no routine (R54, R58). -/
inductive Instr where
  /-- ADD DR, SR1, SR2 (R81): `0001dddsss0xxttt`. -/
  | addReg (dr sr1 : RegIdx) (ignored : BitVec 2) (sr2 : RegIdx)
  /-- ADD DR, SR1, #imm5 (R82): `0001dddsss1iiiii`. -/
  | addImm (dr sr1 : RegIdx) (imm5 : BitVec 5)
  /-- AND DR, SR1, SR2 (R83): `0101dddsss0xxttt`. -/
  | andReg (dr sr1 : RegIdx) (ignored : BitVec 2) (sr2 : RegIdx)
  /-- AND DR, SR1, #imm5 (R84): `0101dddsss1iiiii`. -/
  | andImm (dr sr1 : RegIdx) (imm5 : BitVec 5)
  /-- NOT DR, SR1 (R85): `1001dddsssxxxxxx`. -/
  | not (dr sr1 : RegIdx) (ignored : BitVec 6)
  /-- BR with the requested conditions n, z, p (R86): `0000nzpooooooooo`. -/
  | br (n z p : Bool) (pcOffset9 : BitVec 9)
  /-- LD DR, PCoffset9 (R88): `0010dddooooooooo`. -/
  | ld (dr : RegIdx) (pcOffset9 : BitVec 9)
  /-- LDI DR, PCoffset9 (R89): `1010dddooooooooo`. -/
  | ldi (dr : RegIdx) (pcOffset9 : BitVec 9)
  /-- LDR DR, BaseR, #offset6 (R90): `0110dddsssoooooo`. -/
  | ldr (dr baseR : RegIdx) (offset6 : BitVec 6)
  /-- LEA DR, PCoffset9 (R91): `1110dddooooooooo`. -/
  | lea (dr : RegIdx) (pcOffset9 : BitVec 9)
  /-- ST SR, PCoffset9 (R92): `0011rrrooooooooo`. -/
  | st (sr : RegIdx) (pcOffset9 : BitVec 9)
  /-- STI SR, PCoffset9 (R93): `1011rrrooooooooo`. -/
  | sti (sr : RegIdx) (pcOffset9 : BitVec 9)
  /-- STR SR, BaseR, #offset6 (R94): `0111rrrsssoooooo`. -/
  | str (sr baseR : RegIdx) (offset6 : BitVec 6)
  /-- TRAP trapvect8 (R95, R96): `1111xxxxvvvvvvvv`. -/
  | trap (ignored : BitVec 4) (trapvect8 : BitVec 8)
  /-- Opcode 0100, no routine (R98). -/
  | invalid0100 (ignored : BitVec 12)
  /-- Opcode 1000, no routine (R99). -/
  | invalid1000 (ignored : BitVec 12)
  /-- Opcode 1100, no routine (R100). -/
  | invalid1100 (ignored : BitVec 12)
  /-- Opcode 1101, no routine (R101). -/
  | invalid1101 (ignored : BitVec 12)
deriving DecidableEq, Repr

/-- A row of spec/opcode_table.json: its mnemonic, its format, and its fixed bits as a mask and a match. -/
structure Row where
  mnemonic : String
  format : String
  matchBits : Word
  mask : Word
deriving DecidableEq, Repr

/-- The pseudo-instructions of R62, notation for words of the core. -/
inductive Pseudo where
  | halt
  | br (pcOffset9 : BitVec 9)
  | nop
  | getc
  | out
  | puts
  | input
  | putsp
  | ret
deriving DecidableEq, Repr

end Sys2Proof
end

