-- ==== Sys2Proof/WellFormed.lean ====
section
/-! DEFINITION. What is well formed.
Every term of `Instr` is a well-formed instruction: its fields have exactly the widths of R54, and R59 says that every word
selects a row, so an instruction has no check that could fail.
Two checks remain: the standard values of the ignored bits, for claims about builds that test them (G3, U6), and the form of
the host's program image (R122). -/

namespace Sys2Proof

/-- The ignored bits hold the values standard LC-3 requires (G3).
The hardware does not check this (R57); a claim meant for a build that does takes it as a premise (U6). -/
def Instr.standardBits : Instr → Bool
  | .addReg _ _ ignored _ => ignored == 0b00#2
  | .addImm _ _ _ => true
  | .andReg _ _ ignored _ => ignored == 0b00#2
  | .andImm _ _ _ => true
  | .not _ _ ignored => ignored == 0b111111#6
  | .br _ _ _ _ => true
  | .ld _ _ => true
  | .ldi _ _ => true
  | .ldr _ _ _ => true
  | .lea _ _ => true
  | .st _ _ => true
  | .sti _ _ => true
  | .str _ _ _ => true
  | .trap ignored _ => ignored == 0b0000#4
  | .invalid0100 _ => true
  | .invalid1000 _ => true
  | .invalid1100 _ => true
  | .invalid1101 _ => true

/-- A program image is a sequence of 16-bit words with an origin: an even number of bytes, at least two (R122, log entry 14). -/
def imageWellFormed (image : List Byte) : Bool :=
  image.length % 2 == 0 && 2 ≤ image.length

end Sys2Proof
end

