-- ==== Sys2Proof/Decode.lean ====
section
/-! DEFINITION. Decoding and encoding of one 16-bit word (R50 to R60).
Decoding is total on words and rejects none (R59): the four opcodes with no routine decode to constructors of their own.
The opcode numbers are those of R53, which the spec adopts by its decision D1. -/

namespace Sys2Proof

/-- The opcode, bits 15 to 12 (R51). -/
def opcodeOf (w : Word) : BitVec 4 := w.extractLsb' 12 4

/-- The instruction that a word is: dispatch on the opcode (R51, R53), fields at the positions of R52, bit 5 choosing the form
of ADD and AND (R56). -/
def decode (w : Word) : Instr :=
  match (opcodeOf w).toNat with
  | 0 => .br (w.getLsbD 11) (w.getLsbD 10) (w.getLsbD 9) (w.extractLsb' 0 9)
  | 1 =>
    if w.getLsbD 5 then .addImm (w.extractLsb' 9 3) (w.extractLsb' 6 3) (w.extractLsb' 0 5)
    else .addReg (w.extractLsb' 9 3) (w.extractLsb' 6 3) (w.extractLsb' 3 2) (w.extractLsb' 0 3)
  | 2 => .ld (w.extractLsb' 9 3) (w.extractLsb' 0 9)
  | 3 => .st (w.extractLsb' 9 3) (w.extractLsb' 0 9)
  | 4 => .invalid0100 (w.extractLsb' 0 12)
  | 5 =>
    if w.getLsbD 5 then .andImm (w.extractLsb' 9 3) (w.extractLsb' 6 3) (w.extractLsb' 0 5)
    else .andReg (w.extractLsb' 9 3) (w.extractLsb' 6 3) (w.extractLsb' 3 2) (w.extractLsb' 0 3)
  | 6 => .ldr (w.extractLsb' 9 3) (w.extractLsb' 6 3) (w.extractLsb' 0 6)
  | 7 => .str (w.extractLsb' 9 3) (w.extractLsb' 6 3) (w.extractLsb' 0 6)
  | 8 => .invalid1000 (w.extractLsb' 0 12)
  | 9 => .not (w.extractLsb' 9 3) (w.extractLsb' 6 3) (w.extractLsb' 0 6)
  | 10 => .ldi (w.extractLsb' 9 3) (w.extractLsb' 0 9)
  | 11 => .sti (w.extractLsb' 9 3) (w.extractLsb' 0 9)
  | 12 => .invalid1100 (w.extractLsb' 0 12)
  | 13 => .invalid1101 (w.extractLsb' 0 12)
  | 14 => .lea (w.extractLsb' 9 3) (w.extractLsb' 0 9)
  | _ => .trap (w.extractLsb' 8 4) (w.extractLsb' 0 8)

/-- What the decoder reads from the low `nbits` bits of `w`, the rest of the word zero.
No instruction is longer than one word (R50), so a longer row would be none of this machine's. -/
def decodeTableWord (nbits w : Nat) : Option Instr :=
  if nbits ≤ 16 then some (decode (BitVec.ofNat 16 (w % 2 ^ nbits))) else none

/-- The word of an instruction, field by field as R54 lays it out, bit 15 first; the widths of the fields add up to 16. -/
def encode : Instr → Word
  | .addReg dr sr1 ignored sr2 => (0b0001#4 ++ dr ++ sr1 ++ 0#1 ++ ignored ++ sr2).setWidth 16
  | .addImm dr sr1 imm5 => (0b0001#4 ++ dr ++ sr1 ++ 1#1 ++ imm5).setWidth 16
  | .andReg dr sr1 ignored sr2 => (0b0101#4 ++ dr ++ sr1 ++ 0#1 ++ ignored ++ sr2).setWidth 16
  | .andImm dr sr1 imm5 => (0b0101#4 ++ dr ++ sr1 ++ 1#1 ++ imm5).setWidth 16
  | .not dr sr1 ignored => (0b1001#4 ++ dr ++ sr1 ++ ignored).setWidth 16
  | .br n z p pcOffset9 => (0b0000#4 ++ BitVec.ofBool n ++ BitVec.ofBool z ++ BitVec.ofBool p ++ pcOffset9).setWidth 16
  | .ld dr pcOffset9 => (0b0010#4 ++ dr ++ pcOffset9).setWidth 16
  | .ldi dr pcOffset9 => (0b1010#4 ++ dr ++ pcOffset9).setWidth 16
  | .ldr dr baseR offset6 => (0b0110#4 ++ dr ++ baseR ++ offset6).setWidth 16
  | .lea dr pcOffset9 => (0b1110#4 ++ dr ++ pcOffset9).setWidth 16
  | .st sr pcOffset9 => (0b0011#4 ++ sr ++ pcOffset9).setWidth 16
  | .sti sr pcOffset9 => (0b1011#4 ++ sr ++ pcOffset9).setWidth 16
  | .str sr baseR offset6 => (0b0111#4 ++ sr ++ baseR ++ offset6).setWidth 16
  | .trap ignored trapvect8 => (0b1111#4 ++ ignored ++ trapvect8).setWidth 16
  | .invalid0100 ignored => (0b0100#4 ++ ignored).setWidth 16
  | .invalid1000 ignored => (0b1000#4 ++ ignored).setWidth 16
  | .invalid1100 ignored => (0b1100#4 ++ ignored).setWidth 16
  | .invalid1101 ignored => (0b1101#4 ++ ignored).setWidth 16

/-- The register an instruction writes, if it writes one: DR of R52, by the table of R15. -/
def Instr.dest : Instr → Option RegIdx
  | .addReg dr _ _ _ => some dr
  | .addImm dr _ _ => some dr
  | .andReg dr _ _ _ => some dr
  | .andImm dr _ _ => some dr
  | .not dr _ _ => some dr
  | .br _ _ _ _ => none
  | .ld dr _ => some dr
  | .ldi dr _ => some dr
  | .ldr dr _ _ => some dr
  | .lea dr _ => some dr
  | .st _ _ => none
  | .sti _ _ => none
  | .str _ _ _ => none
  | .trap _ _ => none
  | .invalid0100 _ => none
  | .invalid1000 _ => none
  | .invalid1100 _ => none
  | .invalid1101 _ => none

/-- The registers an instruction reads, by the table of R15. -/
def Instr.reads : Instr → List RegIdx
  | .addReg _ sr1 _ sr2 => [sr1, sr2]
  | .addImm _ sr1 _ => [sr1]
  | .andReg _ sr1 _ sr2 => [sr1, sr2]
  | .andImm _ sr1 _ => [sr1]
  | .not _ sr1 _ => [sr1]
  | .br _ _ _ _ => []
  | .ld _ _ => []
  | .ldi _ _ => []
  | .ldr _ baseR _ => [baseR]
  | .lea _ _ => []
  | .st sr _ => [sr]
  | .sti sr _ => [sr]
  | .str sr baseR _ => [sr, baseR]
  | .trap _ _ => []
  | .invalid0100 _ => []
  | .invalid1000 _ => []
  | .invalid1100 _ => []
  | .invalid1101 _ => []

/-- The instruction is one of the four opcodes with no routine (R58). -/
def Instr.isInvalid : Instr → Bool
  | .addReg _ _ _ _ => false
  | .addImm _ _ _ => false
  | .andReg _ _ _ _ => false
  | .andImm _ _ _ => false
  | .not _ _ _ => false
  | .br _ _ _ _ => false
  | .ld _ _ => false
  | .ldi _ _ => false
  | .ldr _ _ _ => false
  | .lea _ _ => false
  | .st _ _ => false
  | .sti _ _ => false
  | .str _ _ _ => false
  | .trap _ _ => false
  | .invalid0100 _ => true
  | .invalid1000 _ => true
  | .invalid1100 _ => true
  | .invalid1101 _ => true

/-- The row of the opcode table that an instruction is: its match and mask as the rules R81 to R101 give them. -/
def Instr.row : Instr → Row
  | .addReg _ _ _ _ => ⟨"ADD", "operate-register", 0x1000#16, 0xF020#16⟩
  | .addImm _ _ _ => ⟨"ADD", "operate-immediate", 0x1020#16, 0xF020#16⟩
  | .andReg _ _ _ _ => ⟨"AND", "operate-register", 0x5000#16, 0xF020#16⟩
  | .andImm _ _ _ => ⟨"AND", "operate-immediate", 0x5020#16, 0xF020#16⟩
  | .not _ _ _ => ⟨"NOT", "operate-unary", 0x9000#16, 0xF000#16⟩
  | .br _ _ _ _ => ⟨"BR", "pc-relative-branch", 0x0000#16, 0xF000#16⟩
  | .ld _ _ => ⟨"LD", "pc-relative-load", 0x2000#16, 0xF000#16⟩
  | .ldi _ _ => ⟨"LDI", "pc-relative-indirect-load", 0xA000#16, 0xF000#16⟩
  | .ldr _ _ _ => ⟨"LDR", "base-offset-load", 0x6000#16, 0xF000#16⟩
  | .lea _ _ => ⟨"LEA", "pc-relative-address", 0xE000#16, 0xF000#16⟩
  | .st _ _ => ⟨"ST", "pc-relative-store", 0x3000#16, 0xF000#16⟩
  | .sti _ _ => ⟨"STI", "pc-relative-indirect-store", 0xB000#16, 0xF000#16⟩
  | .str _ _ _ => ⟨"STR", "base-offset-store", 0x7000#16, 0xF000#16⟩
  | .trap _ _ => ⟨"TRAP", "trap", 0xF000#16, 0xF000#16⟩
  | .invalid0100 _ => ⟨"INVALID_0100", "invalid", 0x4000#16, 0xF000#16⟩
  | .invalid1000 _ => ⟨"INVALID_1000", "invalid", 0x8000#16, 0xF000#16⟩
  | .invalid1100 _ => ⟨"INVALID_1100", "invalid", 0xC000#16, 0xF000#16⟩
  | .invalid1101 _ => ⟨"INVALID_1101", "invalid", 0xD000#16, 0xF000#16⟩

/-- spec/opcode_table.json, in its order. -/
def opcodeTable : List Row :=
  [ (Instr.addReg 0 0 0 0).row, (Instr.addImm 0 0 0).row, (Instr.andReg 0 0 0 0).row, (Instr.andImm 0 0 0).row,
    (Instr.not 0 0 0).row, (Instr.br false false false 0).row, (Instr.ld 0 0).row, (Instr.ldi 0 0).row,
    (Instr.ldr 0 0 0).row ] ++
  [ (Instr.lea 0 0).row, (Instr.st 0 0).row, (Instr.sti 0 0).row, (Instr.str 0 0 0).row, (Instr.trap 0 0).row,
    (Instr.invalid0100 0).row, (Instr.invalid1000 0).row, (Instr.invalid1100 0).row, (Instr.invalid1101 0).row ]

/-- A word has the fixed bits of a row. -/
def Row.selects (r : Row) (w : Word) : Bool := w &&& r.mask == r.matchBits

/-- The instruction a pseudo-instruction stands for (R62). -/
def Pseudo.expand : Pseudo → Instr
  | .halt => .trap 0#4 0x25#8
  | .br pcOffset9 => .br true true true pcOffset9
  | .nop => .br false false false 0#9
  | .getc => .trap 0#4 0x20#8
  | .out => .trap 0#4 0x21#8
  | .puts => .trap 0#4 0x22#8
  | .input => .trap 0#4 0x23#8
  | .putsp => .trap 0#4 0x24#8
  | .ret => .invalid1100 0x1C0#12

end Sys2Proof
end

