-- ==== Sys2Proof/Config.lean ====
section
/-! DEFINITION. What an implementation fixes: the parameters of R4, the open host parameter LOADER_WRAP (D21), and the one
free value of the port (R47). The defaults of the parameters stand in Machine/Params.lean. -/

namespace Sys2Proof

/-- The parameters of R4: PC_RESET (D22) and HALT_VECTOR (D2). -/
structure Config where
  pcReset : Word
  haltVector : BitVec 8
deriving DecidableEq, Repr

/-- LOADER_WRAP, what the host's loader does with an image that runs past 0xFFFF: open in the spec (R122, D21, N18). -/
inductive LoaderWrap where
  | wrap
  | truncate
  | refuse
deriving DecidableEq, Repr

/-- The value on mem_wdata in a cycle that reads memory at the given address: R47 states none, so it is a free value
(log entry 9). -/
opaque Config.readCycleWdata : Addr → Word

end Sys2Proof
end

