-- ==== Sys2Proof/Machine/Params.lean ====
section
/-! DEFINITION. The default values of the parameters of R4. -/

namespace Sys2Proof

/-- PC_RESET = 0x3000 (D22) and HALT_VECTOR = 0x25 (D2), the defaults of R4 (log entry 2). -/
def Config.standard : Config := { pcReset := 0x3000#16, haltVector := 0x25#8 }

end Sys2Proof
end

