-- ==== Sys2Proof/Machine/State.lean ====
section
/-! DEFINITION. The state of the block with the memory it is connected to (R14 to R34), the reasons a step could stop, and the
state after power-up and reset (R32). -/

namespace Sys2Proof.Machine

/-- The condition flag CC: exactly one of three values (R20). Its one-hot code is `CondFlag.bits`. -/
inductive CondFlag where
  | negative
  | zero
  | positive
deriving DecidableEq, Repr

/-- The condition XCAUSE records (R26). Its code is `Cause.code`; the code 0b11 is never produced. -/
inductive Cause where
  | none
  | invalidOpcode
  | unimplementedTrap
deriving DecidableEq, Repr

/-- The two synchronous conditions the core raises (R102). -/
inductive Condition where
  | invalidOpcode
  | unimplementedTrap
deriving DecidableEq, Repr

/-- The states of the control FSM (R66). -/
inductive FsmState where
  | fetch
  | exec
  | mem2
  | halt
  | fault
deriving DecidableEq, Repr

/-- A word of memory at a word address: the block addresses nothing smaller (R38, R39; log entry 1). -/
abbrev Cell := Nat × Word

/-- The memory M of R34: the words that differ from what an unlisted address reads as, by rising address. -/
abbrev Memory := List Cell

/-- Every piece of state the spec gives the block (R32), and the memory. -/
structure State where
  /-- R0 to R7 (R14). -/
  regs : Vector Word 8
  /-- The program counter (R17). -/
  pc : Word
  /-- The condition flag (R20). -/
  cc : CondFlag
  /-- RUNNING (R24). -/
  running : Bool
  /-- ILLOP, sticky: an invalid opcode was executed since reset (R26). -/
  illop : Bool
  /-- XCAUSE, the most recent condition (R26). -/
  xcause : Cause
  /-- XINFO, the instruction word of the most recent condition (R26). -/
  xinfo : Word
  /-- IR, the word latched at fetch (R29). -/
  ir : Word
  /-- EA, the pointer that LDI and STI read (R29). -/
  ea : Word
  /-- The state of the control FSM (R29, R66). -/
  fsm : FsmState
  /-- The memory M (R28, R34). -/
  mem : Memory
deriving DecidableEq, Repr

/-- The reasons a step stops with a fault: there are none.
Every operation of the core is total (R103); the two conditions of R102 are next states, and S_FAULT is a state. -/
inductive Fault where
deriving DecidableEq, Repr

/-- The reasons a step is refused. -/
inductive Refusal where
  /-- Raised by an arm of `exec` for an instruction with no meaning. Safe. No arm raises it: every instruction has one. -/
  | notModelled (mnemonic : String)
deriving DecidableEq, Repr

/-- The outcome of an instruction or a step. -/
abbrev Result := Host.Outcome State Fault Refusal

/-- The block after power-up and reset without a host load of PC: the table of R32. -/
def State.reset : State where
  regs := Vector.replicate 8 0x0000#16
  pc := Config.standard.pcReset
  cc := .zero
  running := true
  illop := false
  xcause := .none
  xinfo := 0x0000#16
  ir := 0x0000#16
  ea := 0x0000#16
  fsm := .fetch
  mem := []

end Sys2Proof.Machine
end

