-- ==== Sys2Proof/Machine/Flags.lean ====
section
/-! DEFINITION. The condition flag: how it is set and how BR reads it (R20 to R22, R77, R86), and the codes of the report and
of the FSM (R26, R66). -/

namespace Sys2Proof.Machine

/-- The one-hot code CC[2:0] = N, Z, P (R20). -/
def CondFlag.bits : CondFlag → BitVec 3
  | .negative => 0b100#3
  | .zero => 0b010#3
  | .positive => 0b001#3

/-- `setcc(v)`: the flag of the value just written to the destination register (R21). -/
def setcc (v : Word) : CondFlag :=
  if v = 0x0000#16 then .zero
  else if v.getLsbD 15 then .negative
  else .positive

/-- `taken`: the flag matches at least one requested condition bit (R86). -/
def branchTaken (n z p : Bool) (cc : CondFlag) : Bool :=
  (n && cc.bits.getLsbD 2) || (z && cc.bits.getLsbD 1) || (p && cc.bits.getLsbD 0)

/-- The 2-bit code of XCAUSE (R26, R102). -/
def Cause.code : Cause → BitVec 2
  | .none => 0b00#2
  | .invalidOpcode => 0b01#2
  | .unimplementedTrap => 0b10#2

/-- The code of the FSM state on obs_fsm (R66). -/
def FsmState.code : FsmState → BitVec 3
  | .fetch => 0#3
  | .exec => 1#3
  | .mem2 => 2#3
  | .halt => 3#3
  | .fault => 4#3

end Sys2Proof.Machine
end

