-- ==== Sys2Proof/Machine/Ops.lean ====
section
/-! DEFINITION. The named operations every instruction is made of: memory (R34 to R36), registers (R10, R14), fetch and advance
(R18, R63), the end of an instruction, halt (R95), and the ONE operation that raises a condition (R102 to R106).
The core has no return from an exception: no handler is ever entered, and only reset leaves S_HALT or S_FAULT (R106, R110). -/

namespace Sys2Proof.Machine

/-- What a word that nothing has written reads as: 0x0000, the power-up value (R36). -/
def Memory.unlisted : Word := 0x0000#16

/-- The word at an address. -/
def Memory.readAt : Memory → Nat → Word
  | [], _ => Memory.unlisted
  | (b, w) :: m, a => if a = b then w else Memory.readAt m a

/-- The memory with the word at one address replaced, in canonical form. -/
def Memory.writeAt : Memory → Nat → Word → Memory
  | [], a, v => if v = Memory.unlisted then [] else [(a, v)]
  | (b, w) :: m, a, v =>
    if a < b then
      if v = Memory.unlisted then (b, w) :: m else (a, v) :: (b, w) :: m
    else if a = b then
      if v = Memory.unlisted then m else (a, v) :: m
    else (b, w) :: Memory.writeAt m a v

/-- `MemRead(addr, 16)`: never fails (R11, R34). -/
def Memory.read (m : Memory) (a : Addr) : Word := Memory.readAt m a.toNat

/-- `MemWrite(addr, 16, v)`: never fails (R11, R34). -/
def Memory.write (m : Memory) (a : Addr) (v : Word) : Memory := Memory.writeAt m a.toNat v

/-- The canonical form from a lowest admitted address on: addresses rise, stay below 65,536, and no entry is what an unlisted
address reads as. -/
def Memory.wfFrom : Nat → Memory → Bool
  | _, [] => true
  | lo, (a, v) :: m =>
    decide (lo ≤ a) && decide (a < 65536) && decide (v ≠ Memory.unlisted) && Memory.wfFrom (a + 1) m

/-- The memory is in canonical form, so that equal memories are equal data. -/
def Memory.wf (m : Memory) : Bool := Memory.wfFrom 0 m

/-- `x[i]` (R10). -/
def State.reg (s : State) (r : RegIdx) : Word := s.regs[r.toNat]'r.isLt

/-- `x[i] <- v` (R10). No register is hardwired (R14). -/
def State.setReg (s : State) (r : RegIdx) (v : Word) : State := { s with regs := s.regs.set r.toNat v r.isLt }

/-- `x[DR] <- v; setcc(v)`: what every instruction with a destination register does last (R22). -/
def State.setDest (s : State) (r : RegIdx) (v : Word) : State := { s.setReg r v with cc := setcc v }

/-- `MemRead(addr, 16)` of the block's memory. -/
def State.load (s : State) (a : Addr) : Word := Memory.read s.mem a

/-- `MemWrite(addr, 16, v)` to the block's memory. -/
def State.store (s : State) (a : Addr) (v : Word) : State := { s with mem := Memory.write s.mem a v }

/-- EA ← the pointer read (R29, R68). -/
def State.latchPointer (s : State) (p : Word) : State := { s with ea := p }

/-- `pc <- target` (R10). -/
def State.jump (s : State) (target : Addr) : State := { s with pc := target }

/-- Fetch and advance: IR ← M[PC], PC ← PC + 1 modulo 2^16, and the FSM goes on to execute (R18, R63, R67). -/
def State.fetch (s : State) : State :=
  { s with ir := s.load s.pc, pc := s.pc + 1#16, fsm := .exec }

/-- The instruction is complete, and the FSM goes back to fetch (R68, R72). -/
def State.complete (s : State) : State := { s with fsm := .fetch }

/-- The halt trap: RUNNING ← 0, and the FSM goes to S_HALT (R95). -/
def State.halt (s : State) : State := { s with running := false, fsm := .halt }

/-- `raise <condition>(instr)`, where `instr` is the word IR holds (R68): the report registers, and where the FSM goes.
InvalidOpcode is reported and execution goes on (R104); UnimplementedTrap is reported and stops the block in S_FAULT (R105).
No handler is entered and nothing is saved (R106). -/
def State.raise (s : State) : Condition → State
  | .invalidOpcode => { s with illop := true, xcause := .invalidOpcode, xinfo := s.ir, fsm := .fetch }
  | .unimplementedTrap => { s with xcause := .unimplementedTrap, xinfo := s.ir, fsm := .fault }

/-- HALTED: the FSM state is S_HALT (R27). -/
def State.halted (s : State) : Bool := s.fsm == .halt

/-- FAULTED: the FSM state is S_FAULT (R27). -/
def State.faulted (s : State) : Bool := s.fsm == .fault

end Sys2Proof.Machine
end

