-- ==== Sys2Proof/Machine/Operands.lean ====
section
/-! DEFINITION. The operand forms: sign and zero extension (R8, R9), register and immediate operands (R55, R56), and the two
address computations, modulo 2^16 (R37). -/

namespace Sys2Proof.Machine

/-- `sext_N(v)`: if the top bit of the N-bit value is 1, OR with `0xFFFF << N`, else leave unchanged (R8). -/
def sext {n : Nat} (v : BitVec n) : Word :=
  if v.msb then v.setWidth 16 ||| (0xFFFF#16 <<< n) else v.setWidth 16

/-- `zext_N(v)` (R9). -/
def zext {n : Nat} (v : BitVec n) : Word := v.setWidth 16

/-- PC + sext_9(PCoffset9), where PC is already advanced (R13, R37, R55). -/
def State.pcRelative (s : State) (pcOffset9 : BitVec 9) : Addr := s.pc + sext pcOffset9

/-- x[BaseR] + sext_6(offset6) (R37, R55). -/
def State.baseRelative (s : State) (baseR : RegIdx) (offset6 : BitVec 6) : Addr := s.reg baseR + sext offset6

/-- The pointer of the memory-indirect form: the word read from a PC-relative address (R89, R93). -/
def State.pointer (s : State) (pcOffset9 : BitVec 9) : Addr := s.load (s.pcRelative pcOffset9)

/-- The address an instruction stores to, if it stores (R92 to R94). -/
def State.storeAddress (s : State) : Instr → Option Addr
  | .addReg _ _ _ _ => none
  | .addImm _ _ _ => none
  | .andReg _ _ _ _ => none
  | .andImm _ _ _ => none
  | .not _ _ _ => none
  | .br _ _ _ _ => none
  | .ld _ _ => none
  | .ldi _ _ => none
  | .ldr _ _ _ => none
  | .lea _ _ => none
  | .st _ pcOffset9 => some (s.pcRelative pcOffset9)
  | .sti _ pcOffset9 => some (s.pointer pcOffset9)
  | .str _ baseR offset6 => some (s.baseRelative baseR offset6)
  | .trap _ _ => none
  | .invalid0100 _ => none
  | .invalid1000 _ => none
  | .invalid1100 _ => none
  | .invalid1101 _ => none

end Sys2Proof.Machine
end

