-- ==== Sys2Proof/Machine/Branch.lean ====
section
/-! DEFINITION. BR (R86, R87). -/

namespace Sys2Proof.Machine

/-- BR: PC ← PC + sext_9(PCoffset9) iff the flag matches a requested condition bit (R86). -/
def execBr (n z p : Bool) (pcOffset9 : BitVec 9) (s : State) : Result :=
  .next (if branchTaken n z p s.cc then s.jump (s.pcRelative pcOffset9) else s).complete

end Sys2Proof.Machine
end

