-- ==== Sys2Proof/Machine/Invalid.lean ====
section
/-! DEFINITION. The four opcodes with no routine (R97 to R101): each raises InvalidOpcode and does nothing else. -/

namespace Sys2Proof.Machine

/-- Opcode 0100 (R98). -/
def execInvalid0100 (s : State) : Result := .next (s.raise .invalidOpcode)

/-- Opcode 1000 (R99). -/
def execInvalid1000 (s : State) : Result := .next (s.raise .invalidOpcode)

/-- Opcode 1100 (R100). -/
def execInvalid1100 (s : State) : Result := .next (s.raise .invalidOpcode)

/-- Opcode 1101 (R101). -/
def execInvalid1101 (s : State) : Result := .next (s.raise .invalidOpcode)

end Sys2Proof.Machine
end

