-- ==== Sys2Proof/Machine/Load.lean ====
section
/-! DEFINITION. LD, LDI, LDR and LEA (R88 to R91). -/

namespace Sys2Proof.Machine

/-- LD (R88). -/
def execLd (dr : RegIdx) (pcOffset9 : BitVec 9) (s : State) : Result :=
  .next (s.setDest dr (s.load (s.pcRelative pcOffset9))).complete

/-- The second access of LDI, through the pointer in EA (R69, R89). -/
def State.loadThroughEa (s : State) (dr : RegIdx) : State := (s.setDest dr (s.load s.ea)).complete

/-- LDI: two reads, the pointer and then the data (R89). -/
def execLdi (dr : RegIdx) (pcOffset9 : BitVec 9) (s : State) : Result :=
  .next ((s.latchPointer (s.pointer pcOffset9)).loadThroughEa dr)

/-- LDR (R90). -/
def execLdr (dr baseR : RegIdx) (offset6 : BitVec 6) (s : State) : Result :=
  .next (s.setDest dr (s.load (s.baseRelative baseR offset6))).complete

/-- LEA: the address itself, no memory access; it sets CC (R91, C8). -/
def execLea (dr : RegIdx) (pcOffset9 : BitVec 9) (s : State) : Result :=
  .next (s.setDest dr (s.pcRelative pcOffset9)).complete

end Sys2Proof.Machine
end

