-- ==== Sys2Proof/Machine/Operate.lean ====
section
/-! DEFINITION. ADD, AND and NOT (R81 to R85). Each is the execute phase of R63: IR holds the word and PC its address plus 1. -/

namespace Sys2Proof.Machine

/-- ADD, register form (R81). -/
def execAddReg (dr sr1 sr2 : RegIdx) (s : State) : Result :=
  .next (s.setDest dr (s.reg sr1 + s.reg sr2)).complete

/-- ADD, immediate form (R82). -/
def execAddImm (dr sr1 : RegIdx) (imm5 : BitVec 5) (s : State) : Result :=
  .next (s.setDest dr (s.reg sr1 + sext imm5)).complete

/-- AND, register form (R83). -/
def execAndReg (dr sr1 sr2 : RegIdx) (s : State) : Result :=
  .next (s.setDest dr (s.reg sr1 &&& s.reg sr2)).complete

/-- AND, immediate form (R84). -/
def execAndImm (dr sr1 : RegIdx) (imm5 : BitVec 5) (s : State) : Result :=
  .next (s.setDest dr (s.reg sr1 &&& sext imm5)).complete

/-- NOT (R85). -/
def execNot (dr sr1 : RegIdx) (s : State) : Result :=
  .next (s.setDest dr (~~~(s.reg sr1))).complete

end Sys2Proof.Machine
end

