-- ==== Sys2Proof/Machine/Store.lean ====
section
/-! DEFINITION. ST, STI and STR (R92 to R94). -/

namespace Sys2Proof.Machine

/-- ST (R92). -/
def execSt (sr : RegIdx) (pcOffset9 : BitVec 9) (s : State) : Result :=
  .next (s.store (s.pcRelative pcOffset9) (s.reg sr)).complete

/-- The second access of STI, through the pointer in EA (R69, R93). -/
def State.storeThroughEa (s : State) (sr : RegIdx) : State := (s.store s.ea (s.reg sr)).complete

/-- STI: reads the pointer, then writes through it (R93). -/
def execSti (sr : RegIdx) (pcOffset9 : BitVec 9) (s : State) : Result :=
  .next ((s.latchPointer (s.pointer pcOffset9)).storeThroughEa sr)

/-- STR (R94). -/
def execStr (sr baseR : RegIdx) (offset6 : BitVec 6) (s : State) : Result :=
  .next (s.store (s.baseRelative baseR offset6) (s.reg sr)).complete

end Sys2Proof.Machine
end

