-- ==== Sys2Proof/Machine/Trap.lean ====
section
/-! DEFINITION. TRAP (R95, R96). It does not vector: no register, CC or memory word changes. -/

namespace Sys2Proof.Machine

/-- TRAP in a block with the given HALT_VECTOR: the halt vector stops the block (R95), any other vector raises
UnimplementedTrap (R96). All 8 bits are compared. -/
def execTrapWith (cfg : Config) (trapvect8 : BitVec 8) (s : State) : Result :=
  if trapvect8 = cfg.haltVector then .next s.halt else .next (s.raise .unimplementedTrap)

/-- TRAP with the default HALT_VECTOR (R4, D2). -/
def execTrap (trapvect8 : BitVec 8) (s : State) : Result :=
  Sys2Proof.Machine.execTrapWith Config.standard trapvect8 s

end Sys2Proof.Machine
end

