-- ==== Sys2Proof/Machine/Dispatch.lean ====
section
/-! DEFINITION. The execute phase of the step: each opcode selects exactly one rule (R65). -/

namespace Sys2Proof.Machine

def exec (i : Instr) (s : State) : Host.Outcome State Fault Refusal :=
  match i with
  | .addReg dr sr1 _ sr2 => Sys2Proof.Machine.execAddReg dr sr1 sr2 s
  | .addImm dr sr1 imm5 => Sys2Proof.Machine.execAddImm dr sr1 imm5 s
  | .andReg dr sr1 _ sr2 => Sys2Proof.Machine.execAndReg dr sr1 sr2 s
  | .andImm dr sr1 imm5 => Sys2Proof.Machine.execAndImm dr sr1 imm5 s
  | .not dr sr1 _ => Sys2Proof.Machine.execNot dr sr1 s
  | .br n z p pcOffset9 => Sys2Proof.Machine.execBr n z p pcOffset9 s
  | .ld dr pcOffset9 => Sys2Proof.Machine.execLd dr pcOffset9 s
  | .ldi dr pcOffset9 => Sys2Proof.Machine.execLdi dr pcOffset9 s
  | .ldr dr baseR offset6 => Sys2Proof.Machine.execLdr dr baseR offset6 s
  | .lea dr pcOffset9 => Sys2Proof.Machine.execLea dr pcOffset9 s
  | .st sr pcOffset9 => Sys2Proof.Machine.execSt sr pcOffset9 s
  | .sti sr pcOffset9 => Sys2Proof.Machine.execSti sr pcOffset9 s
  | .str sr baseR offset6 => Sys2Proof.Machine.execStr sr baseR offset6 s
  | .trap _ trapvect8 => Sys2Proof.Machine.execTrap trapvect8 s
  | .invalid0100 _ => Sys2Proof.Machine.execInvalid0100 s
  | .invalid1000 _ => Sys2Proof.Machine.execInvalid1000 s
  | .invalid1100 _ => Sys2Proof.Machine.execInvalid1100 s
  | .invalid1101 _ => Sys2Proof.Machine.execInvalid1101 s

end Sys2Proof.Machine
end

