-- ==== Sys2Proof/Machine/Sequencer.lean ====
section
/-! DEFINITION. The instruction-level step of R63 and R64, for a block with any parameters.
From S_FETCH it runs one whole instruction; from S_EXEC and S_MEM2, which no instruction boundary shows, it completes the
instruction in progress (log entry 4). -/

namespace Sys2Proof.Machine

/-- The execute phase in a block with the given parameters: only TRAP looks at one. -/
def execWith (cfg : Config) (i : Instr) (s : State) : Result :=
  match i with
  | .trap _ trapvect8 => Sys2Proof.Machine.execTrapWith cfg trapvect8 s
  | other => Sys2Proof.Machine.exec other s

/-- The second data access, which only LDI and STI have (R69). -/
def State.secondAccess (s : State) : Instr → State
  | .ldi dr _ => s.loadThroughEa dr
  | .sti sr _ => s.storeThroughEa sr
  | .addReg _ _ _ _ => s.complete
  | .addImm _ _ _ => s.complete
  | .andReg _ _ _ _ => s.complete
  | .andImm _ _ _ => s.complete
  | .not _ _ _ => s.complete
  | .br _ _ _ _ => s.complete
  | .ld _ _ => s.complete
  | .ldr _ _ _ => s.complete
  | .lea _ _ => s.complete
  | .st _ _ => s.complete
  | .str _ _ _ => s.complete
  | .trap _ _ => s.complete
  | .invalid0100 _ => s.complete
  | .invalid1000 _ => s.complete
  | .invalid1100 _ => s.complete
  | .invalid1101 _ => s.complete

/-- One step. A block that is not running, or is in S_HALT or S_FAULT, does nothing (R64, R70, R71). -/
def stepWith (cfg : Config) (s : State) : Result :=
  if s.running then
    match s.fsm with
    | .fetch => execWith cfg (decode s.fetch.ir) s.fetch
    | .exec => execWith cfg (decode s.ir) s
    | .mem2 => .next (s.secondAccess (decode s.ir))
    | .halt => .next s
    | .fault => .next s
  else .next s

/-- The state in which the next step fetches and runs the given word: it stands at PC, and the block is at an instruction
boundary and running, which the fetch needs (R63, R64; log entry 6). -/
def State.withWordAtPc (s : State) (w : Word) : State :=
  { s with mem := Memory.write s.mem s.pc w, running := true, fsm := .fetch }

end Sys2Proof.Machine
end

