-- ==== Sys2Proof/Machine/Step.lean ====
section
/-! DEFINITION. One step of the block with the default parameters, and how the host places a word where the step fetches. -/

namespace Sys2Proof.Machine

/-- One instruction-level step (R63, R64), with the parameters of `Config.standard`. -/
def step (s : State) : Host.Outcome State Fault Refusal := Sys2Proof.Machine.stepWith Config.standard s

/-- The low `nbits` bits of `w`, the rest of the word zero, stored where the next step fetches. -/
def State.withFetchWord (s : State) (nbits w : Nat) : State :=
  Sys2Proof.Machine.State.withWordAtPc s (BitVec.ofNat 16 (w % 2 ^ nbits))

end Sys2Proof.Machine
end

