-- ==== Sys2Proof/Machine/Control.lean ====
section
/-! DEFINITION. The combinational parts of the clocked block, written from R72 to R77 and not from the instruction-level
meanings: the decoder's control signals, the next-state function, the ALU, the address adder, the branch logic. -/

namespace Sys2Proof.Machine

/-- The three operations of the ALU (R75). -/
inductive AluOp where
  | add
  | and
  | not
deriving DecidableEq, Repr

/-- The second operand of the ALU (R75). -/
inductive AluB where
  | reg
  | imm5
deriving DecidableEq, Repr

/-- What the address adder computes (R76). -/
inductive AddrSel where
  | pcOff9
  | baseOff6
deriving DecidableEq, Repr

/-- What is written to the register file (R74). -/
inductive WbSel where
  | alu
  | mem
  | addr
deriving DecidableEq, Repr

/-- The decoder's outputs (R73). A select signal is `none` where the table leaves it blank: it is not used (log entry 10). -/
structure ControlSignals where
  rselA : Option RegIdx := none
  rselB : Option RegIdx := none
  aluOp : Option AluOp := none
  aluB : Option AluB := none
  addrSel : Option AddrSel := none
  memRe : Bool := false
  memWe : Bool := false
  wbSel : Option WbSel := none
  rfWe : Bool := false
  ccWe : Bool := false
  pcBrWe : Bool := false
  eaWe : Bool := false
  isHalt : Bool := false
  trapFault : Bool := false
  ill : Bool := false
deriving DecidableEq, Repr

/-- taken = (IR[11] & CC[2]) | (IR[10] & CC[1]) | (IR[9] & CC[0]) (R77). -/
def takenLogic (ir : Word) (cc : CondFlag) : Bool := ir.extractLsb' 9 3 &&& cc.bits != 0#3

/-- The decoder in S_EXEC: the table of R73, by IR[15:12]. -/
def execSignals (cfg : Config) (ir : Word) (cc : CondFlag) : ControlSignals :=
  let regA := some (ir.extractLsb' 6 3)
  let aluB := if ir.getLsbD 5 then AluB.imm5 else AluB.reg
  let regB := if ir.getLsbD 5 then none else some (ir.extractLsb' 0 3)
  let regSr := some (ir.extractLsb' 9 3)
  match (opcodeOf ir).toNat with
  | 0 => { addrSel := some .pcOff9, pcBrWe := takenLogic ir cc }
  | 1 => { rselA := regA, rselB := regB, aluOp := some .add, aluB := some aluB, wbSel := some .alu, rfWe := true, ccWe := true }
  | 2 => { addrSel := some .pcOff9, memRe := true, wbSel := some .mem, rfWe := true, ccWe := true }
  | 3 => { rselB := regSr, addrSel := some .pcOff9, memWe := true }
  | 4 => { ill := true }
  | 5 => { rselA := regA, rselB := regB, aluOp := some .and, aluB := some aluB, wbSel := some .alu, rfWe := true, ccWe := true }
  | 6 => { rselA := regA, addrSel := some .baseOff6, memRe := true, wbSel := some .mem, rfWe := true, ccWe := true }
  | 7 => { rselA := regA, rselB := regSr, addrSel := some .baseOff6, memWe := true }
  | 8 => { ill := true }
  | 9 => { rselA := regA, aluOp := some .not, wbSel := some .alu, rfWe := true, ccWe := true }
  | 10 => { addrSel := some .pcOff9, memRe := true, eaWe := true }
  | 11 => { rselB := regSr, addrSel := some .pcOff9, memRe := true, eaWe := true }
  | 12 => { ill := true }
  | 13 => { ill := true }
  | 14 => { addrSel := some .pcOff9, wbSel := some .addr, rfWe := true, ccWe := true }
  | _ => { isHalt := ir.extractLsb' 0 8 == cfg.haltVector, trapFault := ir.extractLsb' 0 8 != cfg.haltVector }

/-- The decoder in S_MEM2: LDI writes its register from memory, STI writes memory from its register (R69, R73). -/
def mem2Signals (ir : Word) : ControlSignals :=
  if opcodeOf ir = 0b1010#4 then { memRe := true, wbSel := some .mem, rfWe := true, ccWe := true }
  else if opcodeOf ir = 0b1011#4 then { rselB := some (ir.extractLsb' 9 3), memWe := true }
  else { }

/-- The decoder, combinational from IR and the FSM state (R73); S_FETCH reads memory (R67), the stopped states do nothing
(R70, R71). -/
def controlSignals (cfg : Config) (fsm : FsmState) (ir : Word) (cc : CondFlag) : ControlSignals :=
  match fsm with
  | .fetch => { memRe := true }
  | .exec => execSignals cfg ir cc
  | .mem2 => mem2Signals ir
  | .halt => { }
  | .fault => { }

/-- The next-state function of R72, at an edge with rst = 0 and ce = 1. -/
def nextFsm (cfg : Config) (fsm : FsmState) (ir : Word) : FsmState :=
  match fsm with
  | .fetch => .exec
  | .exec =>
    if opcodeOf ir = 0b1010#4 ∨ opcodeOf ir = 0b1011#4 then .mem2
    else if opcodeOf ir = 0b1111#4 then
      if ir.extractLsb' 0 8 = cfg.haltVector then .halt else .fault
    else .fetch
  | .mem2 => .fetch
  | .halt => .halt
  | .fault => .fault

/-- A read port of the register file (R74). An unused port drives 0x0000, which nothing takes (log entry 10). -/
def State.readPort (s : State) (sel : Option RegIdx) : Word :=
  match sel with
  | some r => s.reg r
  | none => 0x0000#16

/-- The ALU (R75). -/
def aluResult (op : Option AluOp) (a b : Word) : Word :=
  match op with
  | some .add => a + b
  | some .and => a &&& b
  | some .not => ~~~a
  | none => 0x0000#16

/-- Operand b of the ALU: port B, or sext_5(IR[4:0]) (R75). -/
def aluOperandB (sel : Option AluB) (portB ir : Word) : Word :=
  match sel with
  | some .imm5 => sext (ir.extractLsb' 0 5)
  | some .reg => portB
  | none => portB

/-- The address adder (R76). -/
def addressAdder (sel : Option AddrSel) (pc portA ir : Word) : Addr :=
  match sel with
  | some .pcOff9 => pc + sext (ir.extractLsb' 0 9)
  | some .baseOff6 => portA + sext (ir.extractLsb' 0 6)
  | none => 0x0000#16

end Sys2Proof.Machine
end

