-- ==== Sys2Proof/Machine/Reset.lean ====
section
/-! DEFINITION. The rising edge with rst = 1 (R118, R119, R121). -/

namespace Sys2Proof.Machine

/-- The state after a rising edge with rst = 1, from any state at all (R118, R121).
PC is the host's load value where there is one, else PC_RESET (R119). Memory is not changed (R36). -/
def State.resetEdge (s : State) (cfg : Config) (pcLoad : Option Word) : State where
  regs := Vector.replicate 8 0x0000#16
  pc := pcLoad.getD cfg.pcReset
  cc := .zero
  running := true
  illop := false
  xcause := .none
  xinfo := 0x0000#16
  ir := 0x0000#16
  ea := 0x0000#16
  fsm := .fetch
  mem := s.mem

end Sys2Proof.Machine
end

