-- ==== Sys2Proof/Machine/Clock.lean ====
section
/-! DEFINITION. The clocked block: its ports (R30, R31), the memory port (R47), and one rising edge of clk (R66 to R79, R117,
R118). It is written from the FSM rules and not from the instruction-level meanings, so that R80 is a theorem. -/

namespace Sys2Proof.Machine

/-- The input ports of a cycle (R30), less clk and mem_rdata, which is a function of memory (R47, R127). -/
structure Inputs where
  rst : Bool
  ce : Bool
  pcLoadEn : Bool
  pcLoadVal : Word
  obsRegSel : RegIdx
deriving DecidableEq, Repr

/-- The inputs of a cycle in which the block runs: rst = 0 and ce = 1. -/
def Inputs.run : Inputs := { rst := false, ce := true, pcLoadEn := false, pcLoadVal := 0#16, obsRegSel := 0#3 }

/-- The access on the memory port in a cycle: at most one (R47). -/
inductive MemRequest where
  | idle
  | read (addr : Addr)
  | write (addr : Addr) (data : Word)
deriving DecidableEq, Repr

/-- The output ports of a cycle (R30). -/
structure Outputs where
  memAddr : Addr
  memRe : Bool
  memWe : Bool
  memWdata : Word
  running : Bool
  halted : Bool
  faulted : Bool
  illop : Bool
  xcause : BitVec 2
  xinfo : Word
  illopEvt : Bool
  instrDone : Bool
  obsPc : Word
  obsCc : BitVec 3
  obsIr : Word
  obsFsm : BitVec 3
  obsRegVal : Word
deriving DecidableEq, Repr

/-- The decoder's outputs in a state. -/
def State.signals (s : State) (cfg : Config) : ControlSignals := controlSignals cfg s.fsm s.ir s.cc

/-- The output of the address adder (R76). -/
def State.adder (s : State) (cfg : Config) : Addr :=
  addressAdder (s.signals cfg).addrSel s.pc (s.readPort (s.signals cfg).rselA) s.ir

/-- The memory address of a cycle: PC in S_FETCH (R67), EA in S_MEM2 (R76), the adder's output otherwise (R68). -/
def State.memAddress (s : State) (cfg : Config) : Addr :=
  match s.fsm with
  | .fetch => s.pc
  | .exec => s.adder cfg
  | .mem2 => s.ea
  | .halt => 0x0000#16
  | .fault => 0x0000#16

/-- The access of a cycle with rst = 0 and ce = 1. The word written is port B, x[IR[11:9]] (R68, R69, R73). -/
def State.request (s : State) (cfg : Config) : MemRequest :=
  if (s.signals cfg).memRe then .read (s.memAddress cfg)
  else if (s.signals cfg).memWe then .write (s.memAddress cfg) (s.readPort (s.signals cfg).rselB)
  else .idle

/-- The access of a cycle: none when rst = 1 or ce = 0 (R47). -/
def State.portRequest (s : State) (cfg : Config) (inp : Inputs) : MemRequest :=
  if inp.rst || !inp.ce then .idle else s.request cfg

/-- mem_rdata: the addressed word in a read cycle, in the same cycle (R47); nothing takes it in another cycle. -/
def State.memRdata (s : State) (cfg : Config) : Word :=
  match s.request cfg with
  | .read a => s.load a
  | .write _ _ => 0x0000#16
  | .idle => 0x0000#16

/-- The write data of the register file (R74). -/
def State.writeBack (s : State) (cfg : Config) : Word :=
  match (s.signals cfg).wbSel with
  | some .alu =>
    aluResult (s.signals cfg).aluOp (s.readPort (s.signals cfg).rselA)
      (aluOperandB (s.signals cfg).aluB (s.readPort (s.signals cfg).rselB) s.ir)
  | some .mem => s.memRdata cfg
  | some .addr => s.adder cfg
  | none => 0x0000#16

/-- The PC sequencer (R76). -/
def State.nextPc (s : State) (cfg : Config) : Word :=
  if s.fsm = .fetch then s.pc + 1#16
  else if (s.signals cfg).pcBrWe then s.adder cfg
  else s.pc

/-- The memory after the edge (R47). -/
def State.nextMem (s : State) (cfg : Config) : Memory :=
  match s.request cfg with
  | .write a v => Memory.write s.mem a v
  | .read _ => s.mem
  | .idle => s.mem

/-- XCAUSE after the edge: `trap_fault` and `ill` drive it (R68, R73). -/
def State.nextCause (s : State) (cfg : Config) : Cause :=
  if (s.signals cfg).trapFault then .unimplementedTrap
  else if (s.signals cfg).ill then .invalidOpcode
  else s.xcause

/-- An edge with rst = 0 and ce = 1: every register takes its next value from the values before the edge (R68). -/
def State.activeEdge (s : State) (cfg : Config) : State where
  regs := if (s.signals cfg).rfWe then (s.setReg (s.ir.extractLsb' 9 3) (s.writeBack cfg)).regs else s.regs
  pc := s.nextPc cfg
  cc := if (s.signals cfg).ccWe then setcc (s.writeBack cfg) else s.cc
  running := s.running && !(s.signals cfg).isHalt
  illop := s.illop || (s.signals cfg).ill
  xcause := s.nextCause cfg
  xinfo := if (s.signals cfg).trapFault || (s.signals cfg).ill then s.ir else s.xinfo
  ir := if s.fsm = .fetch then s.memRdata cfg else s.ir
  ea := if (s.signals cfg).eaWe then s.memRdata cfg else s.ea
  fsm := nextFsm cfg s.fsm s.ir
  mem := s.nextMem cfg

/-- One rising edge of clk: rst has priority over ce, and ce = 0 holds all state (R117, R118). pc_load_en is honoured only
while rst = 1 (R119). -/
def State.clock (s : State) (cfg : Config) (inp : Inputs) : State :=
  if inp.rst then s.resetEdge cfg (if inp.pcLoadEn then some inp.pcLoadVal else none)
  else if inp.ce then s.activeEdge cfg
  else s

/-- A number of edges in which the block runs. -/
def State.runClock (s : State) (cfg : Config) : Nat → State
  | 0 => s
  | n + 1 => (s.clock cfg .run).runClock cfg n

/-- Edges with the given inputs, the first input first. -/
def State.clockAll (s : State) (cfg : Config) : List Inputs → State
  | [] => s
  | inp :: inps => (s.clock cfg inp).clockAll cfg inps

/-- instr_done: the last cycle of an instruction, which is S_MEM2 for LDI and STI and S_EXEC for every other (R78). -/
def State.instrDone (s : State) (inp : Inputs) : Bool :=
  !inp.rst && inp.ce &&
    match s.fsm with
    | .fetch => false
    | .exec => !(opcodeOf s.ir == 0b1010#4 || opcodeOf s.ir == 0b1011#4)
    | .mem2 => true
    | .halt => false
    | .fault => false

/-- illop_evt: the S_EXEC cycle of an invalid opcode (R78). -/
def State.illopEvt (s : State) (cfg : Config) (inp : Inputs) : Bool :=
  !inp.rst && inp.ce && (s.signals cfg).ill

/-- The output ports in a cycle (R30, R31, R47). mem_wdata in a read cycle is a free value (log entry 9). -/
def State.outputs (s : State) (cfg : Config) (inp : Inputs) : Outputs where
  memAddr :=
    match s.portRequest cfg inp with
    | .idle => 0x0000#16
    | .read a => a
    | .write a _ => a
  memRe :=
    match s.portRequest cfg inp with
    | .idle => false
    | .read _ => true
    | .write _ _ => false
  memWe :=
    match s.portRequest cfg inp with
    | .idle => false
    | .read _ => false
    | .write _ _ => true
  memWdata :=
    match s.portRequest cfg inp with
    | .idle => 0x0000#16
    | .read a => Config.readCycleWdata a
    | .write _ v => v
  running := s.running
  halted := s.halted
  faulted := s.faulted
  illop := s.illop
  xcause := s.xcause.code
  xinfo := s.xinfo
  illopEvt := s.illopEvt cfg inp
  instrDone := s.instrDone inp
  obsPc := s.pc
  obsCc := s.cc.bits
  obsIr := s.ir
  obsFsm := s.fsm.code
  obsRegVal := s.reg inp.obsRegSel

/-- The memory accesses of a number of running cycles, in order (R40, R44). -/
def State.busTrace (s : State) (cfg : Config) : Nat → List MemRequest
  | 0 => []
  | n + 1 =>
    match s.request cfg with
    | .idle => (s.clock cfg .run).busTrace cfg n
    | r => r :: (s.clock cfg .run).busTrace cfg n

/-- The clock cycles an instruction takes with ce = 1 (R79, R124). -/
def cyclesOf : Instr → Nat
  | .ldi _ _ => 3
  | .sti _ _ => 3
  | .addReg _ _ _ _ => 2
  | .addImm _ _ _ => 2
  | .andReg _ _ _ _ => 2
  | .andImm _ _ _ => 2
  | .not _ _ _ => 2
  | .br _ _ _ _ => 2
  | .ld _ _ => 2
  | .ldr _ _ _ => 2
  | .lea _ _ => 2
  | .st _ _ => 2
  | .str _ _ _ => 2
  | .trap _ _ => 2
  | .invalid0100 _ => 2
  | .invalid1000 _ => 2
  | .invalid1100 _ => 2
  | .invalid1101 _ => 2

end Sys2Proof.Machine
end

