-- ==== Sys2Proof/Machine/Boot.lean ====
section
/-! DEFINITION. What the host does while rst = 1 (R119 to R123): it writes the program image into memory through the memory's
own path, and sets the starting PC at the last reset edge. -/

namespace Sys2Proof.Machine

/-- The words of an image, each two bytes big-endian; none of an odd number of bytes (R122, log entry 14). -/
def imageWords : List Byte → Option (List Word)
  | [] => some []
  | [_] => none
  | hi :: lo :: rest =>
    match imageWords rest with
    | some ws => some ((hi ++ lo) :: ws)
    | none => none

/-- Writes words at consecutive addresses; what happens past 0xFFFF is LOADER_WRAP (R120, R122, D21). -/
def placeWords (lw : LoaderWrap) (m : Memory) (a : Nat) : List Word → Option Memory
  | [] => some m
  | v :: vs =>
    if a < 65536 then placeWords lw (Memory.write m (BitVec.ofNat 16 a) v) (a + 1) vs
    else
      match lw with
      | .wrap => placeWords lw (Memory.write m (BitVec.ofNat 16 a) v) (a + 1) vs
      | .truncate => some m
      | .refuse => none

/-- Boot (R123): with rst held, load the image from its origin on, and set PC to the origin at the last reset edge.
No state where the image has no origin, or LOADER_WRAP refuses it. -/
def State.boot (s : State) (cfg : Config) (lw : LoaderWrap) (image : List Byte) : Option State :=
  match imageWords image with
  | some (origin :: ws) =>
    match placeWords lw s.mem origin.toNat ws with
    | some m => some (State.resetEdge { s with mem := m } cfg (some origin))
    | none => none
  | some [] => none
  | none => none

end Sys2Proof.Machine
end

