-- ==== Sys2Proof/Safety.lean ====
section
/-! DEFINITION. The terms claims use: the legal states of the block, how a run ends (R116), and what counts as a safe run (U1,
U2, U4). -/

namespace Sys2Proof.Machine

/-- The word has an opcode with no routine (R58). -/
def invalidWord (w : Word) : Bool := (decode w).isInvalid

/-- The word is a TRAP with the given halt vector (R95). -/
def haltWord (cfg : Config) (w : Word) : Bool := opcodeOf w == 0b1111#4 && w.extractLsb' 0 8 == cfg.haltVector

/-- The word is a TRAP with another vector (R96). -/
def faultWord (cfg : Config) (w : Word) : Bool := opcodeOf w == 0b1111#4 && w.extractLsb' 0 8 != cfg.haltVector

/-- What the report registers can hold together (R26, R102). -/
def reportLegal (cfg : Config) (s : State) : Prop :=
  match s.xcause with
  | .none => s.illop = false ∧ s.xinfo = 0x0000#16
  | .invalidOpcode => s.illop = true ∧ invalidWord s.xinfo = true
  | .unimplementedTrap => faultWord cfg s.xinfo = true ∧ s.xinfo = s.ir

/-- What IR and EA hold in each FSM state (R67 to R71). -/
def latchesLegal (cfg : Config) (s : State) : Prop :=
  match s.fsm with
  | .fetch => True
  | .exec => s.ir = s.load (s.pc - 1#16)
  | .mem2 =>
    s.ir = s.load (s.pc - 1#16) ∧ (opcodeOf s.ir = 0b1010#4 ∨ opcodeOf s.ir = 0b1011#4) ∧
      s.ea = s.load (s.pcRelative (s.ir.extractLsb' 0 9))
  | .halt => haltWord cfg s.ir = true
  | .fault => faultWord cfg s.ir = true

/-- The legal states of a block with the given parameters: what holds at reset and every step and edge keeps. -/
structure State.Legal (cfg : Config) (s : State) : Prop where
  /-- The memory is in canonical form. -/
  memory : Memory.wf s.mem = true
  /-- HALTED is 1 exactly when RUNNING is 0 (R27). -/
  halted : s.running = false ↔ s.fsm = .halt
  /-- An UnimplementedTrap is always the last event before reset (R108). -/
  faulted : s.xcause = .unimplementedTrap ↔ s.fsm = .fault
  /-- The report registers agree (R26). -/
  report : reportLegal cfg s
  /-- IR and EA agree with the FSM state (R67 to R71). -/
  latches : latchesLegal cfg s

/-- The block is at an instruction boundary and running: the next step fetches (R63, R64). -/
def State.Ready (s : State) : Prop := s.fsm = .fetch ∧ s.running = true

/-- The ways a run of the block stands (R116). -/
inductive RunEnd where
  | halted
  | faulted
  | running
deriving DecidableEq, Repr

/-- How the run stands in a state (R116): S_HALT is the only normal end, S_FAULT is an abnormal end, never a final state. -/
def State.runEnd (s : State) : RunEnd :=
  match s.fsm with
  | .halt => .halted
  | .fault => .faulted
  | .fetch => .running
  | .exec => .running
  | .mem2 => .running

/-- The premise 93 asks of a claim about a program: no invalid opcode ran, and the block has not faulted (U1, U2). -/
def State.Clean (s : State) : Prop := s.illop = false ∧ s.fsm ≠ .fault

/-- The run from `s` reaches the end of a program in a clean state after `k` steps: what a claim may read a result from. -/
def HaltsCleanly (s : State) (k : Nat) (t : State) : Prop :=
  Host.Core.run Sys2Proof.core k s = .next t ∧ t.runEnd = .halted ∧ t.Clean

/-- A safe run of `k` steps: every state on the way is clean. -/
def SafeRun (s : State) (k : Nat) : Prop :=
  ∀ j t, j ≤ k → Host.Core.run Sys2Proof.core j s = .next t → t.Clean

end Sys2Proof.Machine
end

