-- ==== Sys2Proof/Certificates/Slice0/Obligations.lean ====
section
/-! DEFINITION. The statements for the provers. The rule numbers in the docstrings are those of spec/. -/

open Sys2Proof Sys2Proof.Machine

/-! ## Encoding -/

/-- R52, R53, R54: for each opcode value, the instruction and the bit positions of its fields, ignored bits included. -/
def Obligations.FieldsSitWhereTheLayoutTableSays : Prop :=
  ∀ w : Word,
    (w.extractLsb' 12 4 = 0b0001#4 → w.getLsbD 5 = false → decode w =
      .addReg (w.extractLsb' 9 3) (w.extractLsb' 6 3) (w.extractLsb' 3 2) (w.extractLsb' 0 3)) ∧
    (w.extractLsb' 12 4 = 0b0001#4 → w.getLsbD 5 = true → decode w =
      .addImm (w.extractLsb' 9 3) (w.extractLsb' 6 3) (w.extractLsb' 0 5)) ∧
    (w.extractLsb' 12 4 = 0b0101#4 → w.getLsbD 5 = false → decode w =
      .andReg (w.extractLsb' 9 3) (w.extractLsb' 6 3) (w.extractLsb' 3 2) (w.extractLsb' 0 3)) ∧
    (w.extractLsb' 12 4 = 0b0101#4 → w.getLsbD 5 = true → decode w =
      .andImm (w.extractLsb' 9 3) (w.extractLsb' 6 3) (w.extractLsb' 0 5)) ∧
    (w.extractLsb' 12 4 = 0b1001#4 → decode w = .not (w.extractLsb' 9 3) (w.extractLsb' 6 3) (w.extractLsb' 0 6)) ∧
    (w.extractLsb' 12 4 = 0b0000#4 → decode w =
      .br (w.getLsbD 11) (w.getLsbD 10) (w.getLsbD 9) (w.extractLsb' 0 9)) ∧
    (w.extractLsb' 12 4 = 0b0010#4 → decode w = .ld (w.extractLsb' 9 3) (w.extractLsb' 0 9)) ∧
    (w.extractLsb' 12 4 = 0b1010#4 → decode w = .ldi (w.extractLsb' 9 3) (w.extractLsb' 0 9)) ∧
    (w.extractLsb' 12 4 = 0b0110#4 → decode w = .ldr (w.extractLsb' 9 3) (w.extractLsb' 6 3) (w.extractLsb' 0 6)) ∧
    (w.extractLsb' 12 4 = 0b1110#4 → decode w = .lea (w.extractLsb' 9 3) (w.extractLsb' 0 9)) ∧
    (w.extractLsb' 12 4 = 0b0011#4 → decode w = .st (w.extractLsb' 9 3) (w.extractLsb' 0 9)) ∧
    (w.extractLsb' 12 4 = 0b1011#4 → decode w = .sti (w.extractLsb' 9 3) (w.extractLsb' 0 9)) ∧
    (w.extractLsb' 12 4 = 0b0111#4 → decode w = .str (w.extractLsb' 9 3) (w.extractLsb' 6 3) (w.extractLsb' 0 6)) ∧
    (w.extractLsb' 12 4 = 0b1111#4 → decode w = .trap (w.extractLsb' 8 4) (w.extractLsb' 0 8)) ∧
    (w.extractLsb' 12 4 = 0b0100#4 → decode w = .invalid0100 (w.extractLsb' 0 12)) ∧
    (w.extractLsb' 12 4 = 0b1000#4 → decode w = .invalid1000 (w.extractLsb' 0 12)) ∧
    (w.extractLsb' 12 4 = 0b1100#4 → decode w = .invalid1100 (w.extractLsb' 0 12)) ∧
    (w.extractLsb' 12 4 = 0b1101#4 → decode w = .invalid1101 (w.extractLsb' 0 12))

/-- Decoding the encoding of any instruction gives it back, with every operand at every value of its field (R54). That the
ignored bits are operands too is the model's choice (log entry 12). -/
def Obligations.DecodeOfEncodeIsIdentity : Prop :=
  ∀ i : Instr, decode (encode i) = i

/-- The model's choice, not a rule of the spec (log entry 12): instructions carry the bits the decoder ignores, so encoding the
decoding of any word gives back the very word, and decoding drops no bit. The spec says only where the fields stand (R54). -/
def Obligations.EncodeOfDecodeIsIdentity : Prop :=
  ∀ w : Word, encode (decode w) = w

/-- R59: every word has the fixed bits of exactly one row of the opcode table, the row of the instruction it decodes to. -/
def Obligations.EveryWordSelectsExactlyOneRow : Prop :=
  ∀ w : Word, opcodeTable.filter (fun r => r.selects w) = [(decode w).row]

/-- The words of the worked examples of R81 to R97 decode to the instructions they are written as. -/
def Obligations.ExampleWordsDecode : Prop :=
  decode 0x1642#16 = .addReg 3#3 1#3 0#2 2#3 ∧ decode 0x1025#16 = .addImm 0#3 0#3 5#5 ∧
  decode 0x5401#16 = .andReg 2#3 0#3 0#2 1#3 ∧ decode 0x56FF#16 = .andImm 3#3 3#3 0b11111#5 ∧
  decode 0x923F#16 = .not 1#3 0#3 0b111111#6 ∧ decode 0x0402#16 = .br false true false 2#9 ∧
  decode 0x2207#16 = .ld 1#3 7#9 ∧ decode 0xA001#16 = .ldi 0#3 1#9 ∧ decode 0x64FF#16 = .ldr 2#3 3#3 0b111111#6 ∧
  decode 0xE1FF#16 = .lea 0#3 0x1FF#9 ∧ decode 0x3401#16 = .st 2#3 1#9 ∧ decode 0xB605#16 = .sti 3#3 5#9 ∧
  decode 0x7702#16 = .str 3#3 4#3 2#6 ∧ decode 0xF025#16 = .trap 0#4 0x25#8 ∧ decode 0x4802#16 = .invalid0100 0x802#12 ∧
  decode 0x8000#16 = .invalid1000 0#12 ∧ decode 0xC1C0#16 = .invalid1100 0x1C0#12 ∧ decode 0xD000#16 = .invalid1101 0#12

/-- R57: bits 4:3 of ADD and AND in register form, bits 5:0 of NOT and bits 11:8 of TRAP do not change what the instruction
does, and the three words of the rule's example all execute as NOT R5, R0. -/
def Obligations.IgnoredBitsDoNotMatter : Prop :=
  (∀ (dr sr1 : RegIdx) (g g' : BitVec 2) (sr2 : RegIdx) (s : State),
    exec (.addReg dr sr1 g sr2) s = exec (.addReg dr sr1 g' sr2) s) ∧
  (∀ (dr sr1 : RegIdx) (g g' : BitVec 2) (sr2 : RegIdx) (s : State),
    exec (.andReg dr sr1 g sr2) s = exec (.andReg dr sr1 g' sr2) s) ∧
  (∀ (dr sr1 : RegIdx) (g g' : BitVec 6) (s : State), exec (.not dr sr1 g) s = exec (.not dr sr1 g') s) ∧
  (∀ (g g' : BitVec 4) (v : BitVec 8) (s : State), exec (.trap g v) s = exec (.trap g' v) s) ∧
  (∀ s : State, exec (decode 0x9A3F#16) s = exec (.not 5#3 0#3 0b111111#6) s ∧
    exec (decode 0x9A2A#16) s = exec (.not 5#3 0#3 0b111111#6) s ∧
    exec (decode 0x9A00#16) s = exec (.not 5#3 0#3 0b111111#6) s)

/-- R62: the word of each pseudo-instruction and its effect in this core. -/
def Obligations.PseudoInstructionsAreTheseWords : Prop :=
  encode (Pseudo.expand .halt) = 0xF025#16 ∧ encode (Pseudo.expand .nop) = 0x0000#16 ∧
  encode (Pseudo.expand .getc) = 0xF020#16 ∧ encode (Pseudo.expand .out) = 0xF021#16 ∧
  encode (Pseudo.expand .puts) = 0xF022#16 ∧ encode (Pseudo.expand .input) = 0xF023#16 ∧
  encode (Pseudo.expand .putsp) = 0xF024#16 ∧ encode (Pseudo.expand .ret) = 0xC1C0#16 ∧
  (∀ off : BitVec 9, encode (Pseudo.expand (.br off)) = 0x0E00#16 ||| off.setWidth 16) ∧
  ∀ s : State,
    exec (Pseudo.expand .halt) s = .next { s with running := false, fsm := .halt } ∧
    exec (Pseudo.expand .nop) s = .next { s with fsm := .fetch } ∧
    (∀ off : BitVec 9, exec (Pseudo.expand (.br off)) s = .next { s with pc := s.pc + sext off, fsm := .fetch }) ∧
    exec (Pseudo.expand .ret) s =
      .next { s with illop := true, xcause := .invalidOpcode, xinfo := s.ir, fsm := .fetch } ∧
    ∀ p ∈ [Pseudo.getc, .out, .puts, .input, .putsp],
      exec p.expand s = .next { s with xcause := .unimplementedTrap, xinfo := s.ir, fsm := .fault }

/-! ## Operands and the condition flag -/

/-- R8: sext_N of an N-bit value, for 1 ≤ N ≤ 16: the source's OR form, bit for bit, and the identity at N = 16. -/
def Obligations.SignExtensionReplicatesTheTopBit : Prop :=
  (∀ (n : Nat) (v : BitVec n), 1 ≤ n → n ≤ 16 →
    sext v = (if v.getLsbD (n - 1) then v.setWidth 16 ||| (0xFFFF#16 <<< n) else v.setWidth 16) ∧
    (∀ k : Nat, k < n → (sext v).getLsbD k = v.getLsbD k) ∧
    (∀ k : Nat, n ≤ k → k < 16 → (sext v).getLsbD k = v.getLsbD (n - 1))) ∧
  ∀ v : BitVec 16, sext v = v

/-- R55: the extended immediates read as the signed numbers of their ranges, −16 to 15, −256 to 255 and −32 to 31. -/
def Obligations.ImmediatesReadAsSignedNumbers : Prop :=
  (∀ v : BitVec 5, (sext v).toInt = v.toInt ∧ -16 ≤ (sext v).toInt ∧ (sext v).toInt ≤ 15) ∧
  (∀ v : BitVec 9, (sext v).toInt = v.toInt ∧ -256 ≤ (sext v).toInt ∧ (sext v).toInt ≤ 255) ∧
  (∀ v : BitVec 6, (sext v).toInt = v.toInt ∧ -32 ≤ (sext v).toInt ∧ (sext v).toInt ≤ 31)

/-- R20: the one-hot codes of the three values of CC. -/
def Obligations.ConditionFlagIsOneHot : Prop :=
  CondFlag.bits .negative = 0b100#3 ∧ CondFlag.bits .zero = 0b010#3 ∧ CondFlag.bits .positive = 0b001#3 ∧
  ∀ c : CondFlag, c.bits = 0b100#3 ∨ c.bits = 0b010#3 ∨ c.bits = 0b001#3

/-- R21: 0x0000 gives Zero, 0x0001 to 0x7FFF give Positive, 0x8000 to 0xFFFF give Negative. -/
def Obligations.SetccClassifiesTheWholeRange : Prop :=
  ∀ v : Word,
    (v = 0x0000#16 → (setcc v).bits = 0b010#3) ∧
    (1 ≤ v.toNat → v.toNat ≤ 0x7FFF → (setcc v).bits = 0b001#3) ∧
    (0x8000 ≤ v.toNat → (setcc v).bits = 0b100#3)

/-! ## The instructions, one rule each

`exec` is the execute phase: IR holds the word and PC its address plus 1 (R13, R63). Each equation gives the whole next state:
a field it does not name keeps its value, and FSM ← S_FETCH ends the instruction (R68). -/

/-- R81: ADD, register form. -/
def Obligations.AddRegisterForm : Prop :=
  (∀ w : Word, w &&& 0xF020#16 = 0x1000#16 →
    decode w = .addReg (w.extractLsb' 9 3) (w.extractLsb' 6 3) (w.extractLsb' 3 2) (w.extractLsb' 0 3)) ∧
  ∀ (dr sr1 : RegIdx) (g : BitVec 2) (sr2 : RegIdx) (s : State), exec (.addReg dr sr1 g sr2) s =
    .next { s with regs := (s.setReg dr (s.reg sr1 + s.reg sr2)).regs, cc := setcc (s.reg sr1 + s.reg sr2), fsm := .fetch }

/-- R82: ADD, immediate form. -/
def Obligations.AddImmediateForm : Prop :=
  (∀ w : Word, w &&& 0xF020#16 = 0x1020#16 →
    decode w = .addImm (w.extractLsb' 9 3) (w.extractLsb' 6 3) (w.extractLsb' 0 5)) ∧
  ∀ (dr sr1 : RegIdx) (imm5 : BitVec 5) (s : State), exec (.addImm dr sr1 imm5) s =
    .next { s with regs := (s.setReg dr (s.reg sr1 + sext imm5)).regs, cc := setcc (s.reg sr1 + sext imm5), fsm := .fetch }

/-- R83: AND, register form. -/
def Obligations.AndRegisterForm : Prop :=
  (∀ w : Word, w &&& 0xF020#16 = 0x5000#16 →
    decode w = .andReg (w.extractLsb' 9 3) (w.extractLsb' 6 3) (w.extractLsb' 3 2) (w.extractLsb' 0 3)) ∧
  ∀ (dr sr1 : RegIdx) (g : BitVec 2) (sr2 : RegIdx) (s : State), exec (.andReg dr sr1 g sr2) s =
    .next { s with
      regs := (s.setReg dr (s.reg sr1 &&& s.reg sr2)).regs, cc := setcc (s.reg sr1 &&& s.reg sr2), fsm := .fetch }

/-- R84: AND, immediate form. -/
def Obligations.AndImmediateForm : Prop :=
  (∀ w : Word, w &&& 0xF020#16 = 0x5020#16 →
    decode w = .andImm (w.extractLsb' 9 3) (w.extractLsb' 6 3) (w.extractLsb' 0 5)) ∧
  ∀ (dr sr1 : RegIdx) (imm5 : BitVec 5) (s : State), exec (.andImm dr sr1 imm5) s =
    .next { s with
      regs := (s.setReg dr (s.reg sr1 &&& sext imm5)).regs, cc := setcc (s.reg sr1 &&& sext imm5), fsm := .fetch }

/-- R85: NOT. -/
def Obligations.NotComplements : Prop :=
  (∀ w : Word, w &&& 0xF000#16 = 0x9000#16 →
    decode w = .not (w.extractLsb' 9 3) (w.extractLsb' 6 3) (w.extractLsb' 0 6)) ∧
  ∀ (dr sr1 : RegIdx) (g : BitVec 6) (s : State), exec (.not dr sr1 g) s =
    .next { s with regs := (s.setReg dr (~~~(s.reg sr1))).regs, cc := setcc (~~~(s.reg sr1)), fsm := .fetch }

/-- R86: BR takes the branch iff the flag is one of the requested conditions; no flag is written. -/
def Obligations.BranchTakenIffFlagRequested : Prop :=
  (∀ w : Word, w &&& 0xF000#16 = 0x0000#16 →
    decode w = .br (w.getLsbD 11) (w.getLsbD 10) (w.getLsbD 9) (w.extractLsb' 0 9)) ∧
  (∀ (n z p : Bool) (off : BitVec 9) (s : State),
    ((n = true ∧ s.cc = .negative) ∨ (z = true ∧ s.cc = .zero) ∨ (p = true ∧ s.cc = .positive)) →
    exec (.br n z p off) s = .next { s with pc := s.pc + sext off, fsm := .fetch }) ∧
  (∀ (n z p : Bool) (off : BitVec 9) (s : State),
    ¬((n = true ∧ s.cc = .negative) ∨ (z = true ∧ s.cc = .zero) ∨ (p = true ∧ s.cc = .positive)) →
    exec (.br n z p off) s = .next { s with fsm := .fetch })

/-- R88: LD. -/
def Obligations.LoadPcRelative : Prop :=
  (∀ w : Word, w &&& 0xF000#16 = 0x2000#16 → decode w = .ld (w.extractLsb' 9 3) (w.extractLsb' 0 9)) ∧
  ∀ (dr : RegIdx) (off : BitVec 9) (s : State), exec (.ld dr off) s =
    .next { s with
      regs := (s.setReg dr (Memory.read s.mem (s.pc + sext off))).regs, cc := setcc (Memory.read s.mem (s.pc + sext off)),
      fsm := .fetch }

/-- R89: LDI reads the pointer, then the data through it; CC is set from the data. EA keeps the pointer (R29, R68). -/
def Obligations.LoadIndirectReadsTwice : Prop :=
  (∀ w : Word, w &&& 0xF000#16 = 0xA000#16 → decode w = .ldi (w.extractLsb' 9 3) (w.extractLsb' 0 9)) ∧
  ∀ (dr : RegIdx) (off : BitVec 9) (s : State) (p : Addr) (v : Word), p = Memory.read s.mem (s.pc + sext off) →
    v = Memory.read s.mem p →
    exec (.ldi dr off) s = .next { s with regs := (s.setReg dr v).regs, cc := setcc v, ea := p, fsm := .fetch }

/-- R90: LDR. -/
def Obligations.LoadBaseRelative : Prop :=
  (∀ w : Word, w &&& 0xF000#16 = 0x6000#16 →
    decode w = .ldr (w.extractLsb' 9 3) (w.extractLsb' 6 3) (w.extractLsb' 0 6)) ∧
  ∀ (dr b : RegIdx) (off : BitVec 6) (s : State), exec (.ldr dr b off) s =
    .next { s with
      regs := (s.setReg dr (Memory.read s.mem (s.reg b + sext off))).regs,
      cc := setcc (Memory.read s.mem (s.reg b + sext off)), fsm := .fetch }

/-- R91: LEA, an address and not memory contents; it sets CC. -/
def Obligations.LeaComputesAnAddress : Prop :=
  (∀ w : Word, w &&& 0xF000#16 = 0xE000#16 → decode w = .lea (w.extractLsb' 9 3) (w.extractLsb' 0 9)) ∧
  (∀ (dr : RegIdx) (off : BitVec 9) (s : State), exec (.lea dr off) s =
    .next { s with regs := (s.setReg dr (s.pc + sext off)).regs, cc := setcc (s.pc + sext off), fsm := .fetch }) ∧
  ∀ (cfg : Config) (s : State) (dr : RegIdx) (off : BitVec 9), s.fsm = .exec → decode s.ir = .lea dr off →
    s.request cfg = .idle

/-- R92: ST. -/
def Obligations.StorePcRelative : Prop :=
  (∀ w : Word, w &&& 0xF000#16 = 0x3000#16 → decode w = .st (w.extractLsb' 9 3) (w.extractLsb' 0 9)) ∧
  ∀ (sr : RegIdx) (off : BitVec 9) (s : State), exec (.st sr off) s =
    .next { s with mem := Memory.write s.mem (s.pc + sext off) (s.reg sr), fsm := .fetch }

/-- R93: STI reads the pointer, then writes through it. EA keeps the pointer (R29, R68). -/
def Obligations.StoreIndirect : Prop :=
  (∀ w : Word, w &&& 0xF000#16 = 0xB000#16 → decode w = .sti (w.extractLsb' 9 3) (w.extractLsb' 0 9)) ∧
  ∀ (sr : RegIdx) (off : BitVec 9) (s : State) (p : Addr), p = Memory.read s.mem (s.pc + sext off) →
    exec (.sti sr off) s = .next { s with mem := Memory.write s.mem p (s.reg sr), ea := p, fsm := .fetch }

/-- R94: STR. -/
def Obligations.StoreBaseRelative : Prop :=
  (∀ w : Word, w &&& 0xF000#16 = 0x7000#16 →
    decode w = .str (w.extractLsb' 9 3) (w.extractLsb' 6 3) (w.extractLsb' 0 6)) ∧
  ∀ (sr b : RegIdx) (off : BitVec 6) (s : State), exec (.str sr b off) s =
    .next { s with mem := Memory.write s.mem (s.reg b + sext off) (s.reg sr), fsm := .fetch }

/-- R95: TRAP with the halt vector of the block's parameters clears RUNNING and stops the block, whatever bits 11:8 are, and no
memory is read after the fetch; `exec` is the block with the default 0x25. All 8 bits of the vector are compared. Once halted,
no instruction executes until reset. -/
def Obligations.TrapHalts : Prop :=
  (∀ (cfg : Config) (g : BitVec 4) (s : State),
    execWith cfg (.trap g cfg.haltVector) s = .next { s with running := false, fsm := .halt }) ∧
  (∀ (cfg : Config) (g : BitVec 4) (v : BitVec 8) (s t : State), execWith cfg (.trap g v) s = .next t →
    (t.fsm = .halt ↔ v = cfg.haltVector)) ∧
  (∀ (cfg : Config) (s : State), s.fsm = .exec → s.ir.extractLsb' 12 4 = 0b1111#4 → s.request cfg = .idle) ∧
  (∀ (g : BitVec 4) (s : State), exec (.trap g 0x25#8) s = .next { s with running := false, fsm := .halt }) ∧
  (∀ w : Word, w &&& 0xF0FF#16 = 0xF025#16 → decode w = .trap (w.extractLsb' 8 4) 0x25#8) ∧
  (∀ s : State, s.running = false → step s = .next s)

/-- R96: TRAP with any other vector raises UnimplementedTrap, with the word IR holds as its information, and the block stays in
the fault state until reset. -/
def Obligations.TrapOtherVectorsFault : Prop :=
  (∀ (cfg : Config) (g : BitVec 4) (v : BitVec 8) (s : State), v ≠ cfg.haltVector →
    execWith cfg (.trap g v) s = .next { s with xcause := .unimplementedTrap, xinfo := s.ir, fsm := .fault }) ∧
  (∀ (g : BitVec 4) (v : BitVec 8) (s : State), v ≠ 0x25#8 →
    exec (.trap g v) s = .next { s with xcause := .unimplementedTrap, xinfo := s.ir, fsm := .fault }) ∧
  (∀ w : Word, w &&& 0xF000#16 = 0xF000#16 → decode w = .trap (w.extractLsb' 8 4) (w.extractLsb' 0 8)) ∧
  Cause.code .unimplementedTrap = 0b10#2 ∧
  (∀ (cfg : Config) (s : State) (inps : List Inputs), s.fsm = .fault → (∀ i ∈ inps, i.rst = false) → s.clockAll cfg inps = s)

/-- R97 to R101: every word of the four opcodes with no routine is a no-op plus report, whatever its other bits, and illop_evt
is 1 in its S_EXEC cycle. -/
def Obligations.InvalidOpcodesAreReportedNoOps : Prop :=
  (∀ w : Word, 0x4000 ≤ w.toNat → w.toNat ≤ 0x4FFF → decode w = .invalid0100 (w.extractLsb' 0 12)) ∧
  (∀ w : Word, 0x8000 ≤ w.toNat → w.toNat ≤ 0x8FFF → decode w = .invalid1000 (w.extractLsb' 0 12)) ∧
  (∀ w : Word, 0xC000 ≤ w.toNat → w.toNat ≤ 0xCFFF → decode w = .invalid1100 (w.extractLsb' 0 12)) ∧
  (∀ w : Word, 0xD000 ≤ w.toNat → w.toNat ≤ 0xDFFF → decode w = .invalid1101 (w.extractLsb' 0 12)) ∧
  (∀ (g : BitVec 12) (s : State), ∀ i ∈ [Instr.invalid0100 g, .invalid1000 g, .invalid1100 g, .invalid1101 g],
    exec i s = .next { s with illop := true, xcause := .invalidOpcode, xinfo := s.ir, fsm := .fetch }) ∧
  ∀ (cfg : Config) (s : State), s.fsm = .exec → invalidWord s.ir = true → (s.outputs cfg .run).illopEvt = true

/-! ## Frames and rules about all instructions -/

/-- An instruction with a destination register changes that register, CC and nothing else but EA (LDI) and the FSM state: no
other register, no memory word, not PC, not the run state, not the report (R15, R19, R22, R24, R26). -/
def Obligations.RegisterWritersChangeOnlyTheirRegister : Prop :=
  ∀ (i : Instr) (d : RegIdx) (s t : State), i.dest = some d → exec i s = .next t →
    (∀ q : RegIdx, q ≠ d → t.reg q = s.reg q) ∧ t.cc = setcc (t.reg d) ∧ (∀ a : Addr, t.load a = s.load a) ∧
    t.pc = s.pc ∧ t.running = s.running ∧ t.illop = s.illop ∧ t.xcause = s.xcause ∧ t.xinfo = s.xinfo ∧ t.ir = s.ir ∧
    t.fsm = .fetch ∧ ((∀ (dr : RegIdx) (off : BitVec 9), i ≠ .ldi dr off) → t.ea = s.ea) ∧
    (∀ (dr : RegIdx) (off : BitVec 9), i = .ldi dr off → t.ea = s.pointer off)

/-- A store writes x[SR] at the address it computes and changes nothing else but EA (STI) and the FSM state: no register, not
CC, no other memory word (R92 to R94). -/
def Obligations.StoresChangeOnlyTheStoredWord : Prop :=
  ∀ (i : Instr) (a : Addr) (sr : RegIdx) (s t : State), Memory.wf s.mem = true →
    s.storeAddress i = some a → i.reads.head? = some sr → exec i s = .next t →
    t.load a = s.reg sr ∧ (∀ c : Addr, c ≠ a → t.load c = s.load c) ∧
    (∀ q : RegIdx, t.reg q = s.reg q) ∧ t.cc = s.cc ∧ t.pc = s.pc ∧ t.running = s.running ∧ t.illop = s.illop ∧
    t.xcause = s.xcause ∧ t.xinfo = s.xinfo ∧ t.ir = s.ir ∧ t.fsm = .fetch ∧
    ((∀ (sr : RegIdx) (off : BitVec 9), i ≠ .sti sr off) → t.ea = s.ea) ∧
    (∀ (sr : RegIdx) (off : BitVec 9), i = .sti sr off → t.ea = a)

/-- BR, TRAP and the invalid opcodes change no register, not CC, not IR, not EA and no memory word; BR changes no run state and
no report, TRAP and the invalid opcodes do not write PC, and only an invalid opcode writes ILLOP (R19, R22, R86, R95 to R97). -/
def Obligations.ControlInstructionsFrame : Prop :=
  ∀ (i : Instr) (s t : State), i.dest = none → s.storeAddress i = none → exec i s = .next t →
    (∀ q : RegIdx, t.reg q = s.reg q) ∧ t.cc = s.cc ∧ t.ir = s.ir ∧ t.ea = s.ea ∧ (∀ a : Addr, t.load a = s.load a) ∧
    ((∃ n z p off, i = .br n z p off) →
      t.running = s.running ∧ t.illop = s.illop ∧ t.xcause = s.xcause ∧ t.xinfo = s.xinfo ∧ t.fsm = .fetch) ∧
    ((∀ (n z p : Bool) (off : BitVec 9), i ≠ .br n z p off) → t.pc = s.pc) ∧ (i.isInvalid = false → t.illop = s.illop) ∧
    (i.isInvalid = true → t.running = s.running)

/-- R15: the registers each instruction reads and writes. Two states that agree outside the register file and on the registers
read lead to states that agree outside the register file and on the register written; no other register is written. -/
def Obligations.RegistersReadAndWrittenAreThoseOfTheTable : Prop :=
  (∀ (dr a : RegIdx) (g : BitVec 2) (b : RegIdx) (k : BitVec 5),
    (Instr.addReg dr a g b).reads = [a, b] ∧ (Instr.addReg dr a g b).dest = some dr ∧
    (Instr.andReg dr a g b).reads = [a, b] ∧ (Instr.andReg dr a g b).dest = some dr ∧
    (Instr.addImm dr a k).reads = [a] ∧ (Instr.addImm dr a k).dest = some dr ∧
    (Instr.andImm dr a k).reads = [a] ∧ (Instr.andImm dr a k).dest = some dr) ∧
  (∀ (r b : RegIdx) (o g : BitVec 6), (Instr.not r b g).reads = [b] ∧ (Instr.not r b g).dest = some r ∧
    (Instr.ldr r b o).reads = [b] ∧ (Instr.ldr r b o).dest = some r ∧
    (Instr.str r b o).reads = [r, b] ∧ (Instr.str r b o).dest = none) ∧
  (∀ (n z p : Bool) (r : RegIdx) (o : BitVec 9), (Instr.br n z p o).reads = [] ∧ (Instr.br n z p o).dest = none ∧
    (Instr.ld r o).reads = [] ∧ (Instr.ld r o).dest = some r ∧ (Instr.ldi r o).reads = [] ∧ (Instr.ldi r o).dest = some r ∧
    (Instr.lea r o).reads = [] ∧ (Instr.lea r o).dest = some r ∧ (Instr.st r o).reads = [r] ∧ (Instr.st r o).dest = none ∧
    (Instr.sti r o).reads = [r] ∧ (Instr.sti r o).dest = none) ∧
  (∀ (g : BitVec 4) (v : BitVec 8) (h : BitVec 12), (Instr.trap g v).reads = [] ∧ (Instr.trap g v).dest = none ∧
    ∀ i ∈ [Instr.invalid0100 h, .invalid1000 h, .invalid1100 h, .invalid1101 h], i.reads = [] ∧ i.dest = none) ∧
  ∀ (i : Instr) (s t t' : State) (other : Vector Word 8),
    (∀ r ∈ i.reads, State.reg { s with regs := other } r = s.reg r) →
    exec i s = .next t → exec i { s with regs := other } = .next t' →
    { t' with regs := t.regs } = t ∧ (∀ q : RegIdx, i.dest = some q → t'.reg q = t.reg q) ∧
    (∀ q : RegIdx, i.dest ≠ some q → t.reg q = s.reg q ∧ t'.reg q = State.reg { s with regs := other } q)

/-- R22: exactly the instructions that write a destination register write CC, by setcc of its new value, and only BR reads CC:
for every other instruction, another CC before gives the same state after, but for CC where the instruction does not write it. -/
def Obligations.ConditionFlagWrittenAndReadAsStated : Prop :=
  (∀ (i : Instr) (s t : State), exec i s = .next t →
    t.cc = match i with
      | .addReg dr _ _ _ => setcc (t.reg dr)
      | .addImm dr _ _ => setcc (t.reg dr)
      | .andReg dr _ _ _ => setcc (t.reg dr)
      | .andImm dr _ _ => setcc (t.reg dr)
      | .not dr _ _ => setcc (t.reg dr)
      | .ld dr _ => setcc (t.reg dr)
      | .ldi dr _ => setcc (t.reg dr)
      | .ldr dr _ _ => setcc (t.reg dr)
      | .lea dr _ => setcc (t.reg dr)
      | .br _ _ _ _ => s.cc
      | .st _ _ => s.cc
      | .sti _ _ => s.cc
      | .str _ _ _ => s.cc
      | .trap _ _ => s.cc
      | .invalid0100 _ => s.cc
      | .invalid1000 _ => s.cc
      | .invalid1100 _ => s.cc
      | .invalid1101 _ => s.cc) ∧
  ∀ (i : Instr) (s t t' : State) (c : CondFlag), (∀ (n z p : Bool) (off : BitVec 9), i ≠ .br n z p off) →
    exec i s = .next t → exec i { s with cc := c } = .next t' →
    t' = { t with cc := if i.dest.isSome then t.cc else c }

/-- R18, R19: over one step from an instruction boundary, PC is the fetch advance, or the target of a taken BR. -/
def Obligations.PcWrittenOnlyByFetchAndTakenBranch : Prop :=
  ∀ s t : State, s.Ready → step s = .next t →
    (∀ (n z p : Bool) (off : BitVec 9), decode (s.load s.pc) ≠ .br n z p off) ∧ t.pc = s.pc + 1#16 ∨
    ∃ n z p off, decode (s.load s.pc) = .br n z p off ∧
      t.pc = if branchTaken n z p s.cc then s.pc + 1#16 + sext off else s.pc + 1#16

/-- R103: every core operation is total, so every instruction completes in every state and no step stops the model. -/
def Obligations.EveryInstructionAndStepCompletes : Prop :=
  (∀ (i : Instr) (s : State), ∃ t, exec i s = .next t) ∧ ∀ s : State, ∃ t, step s = .next t

/-! ## The step -/

/-- R63: a step of a running block at an instruction boundary fetches the word at PC, advances PC, decodes the word and
executes it. The state that executes also has the word in IR and S_EXEC as its FSM state (R67). -/
def Obligations.StepRunsTheDecodedInstruction : Prop :=
  ∀ (s : State) (i : Instr), s.Ready → decode (s.load s.pc) = i →
    step s = exec i { s with ir := s.load s.pc, pc := s.pc + 1#16, fsm := .exec }

/-- R64: a block that is halted or faulted does nothing: no state change, no memory access, at a step or at any number of clock
edges without reset; and a reset edge makes it ready to step again. -/
def Obligations.StoppedBlockDoesNothingUntilReset : Prop :=
  (∀ s : State, s.running = false ∨ s.fsm = .fault → step s = .next s) ∧
  (∀ (cfg : Config) (s : State) (inps : List Inputs), s.fsm = .halt ∨ s.fsm = .fault → (∀ i ∈ inps, i.rst = false) →
    s.clockAll cfg inps = s ∧ ∀ i : Inputs, (s.outputs cfg i).memRe = false ∧ (s.outputs cfg i).memWe = false) ∧
  ∀ (cfg : Config) (s : State) (inp : Inputs), inp.rst = true → (s.clock cfg inp).Ready

/-- R24: RUNNING is cleared only by the halt trap, no instruction sets it, and only reset sets it back; while it is 0 a step
changes nothing; an unimplemented trap vector leaves it and puts the block in the fault state. -/
def Obligations.RunningClearedOnlyByTheHaltTrap : Prop :=
  State.reset.running = true ∧
  (∀ s t : State, s.Ready → step s = .next t → (t.running = false ↔ haltWord Config.standard (s.load s.pc) = true)) ∧
  (∀ (i : Instr) (s t : State), exec i s = .next t → t.running = true → s.running = true) ∧
  (∀ (cfg : Config) (s : State) (inp : Inputs), (s.clock cfg inp).running = true → s.running = true ∨ inp.rst = true) ∧
  (∀ (cfg : Config) (s : State) (inp : Inputs), inp.rst = true → (s.clock cfg inp).running = true) ∧
  (∀ s : State, s.running = false → step s = .next s) ∧
  (∀ s t : State, s.Ready → faultWord Config.standard (s.load s.pc) = true → step s = .next t →
    t.running = true ∧ t.fsm = .fault)

/-- R104: InvalidOpcode, over one step: the report is made with the word itself, PC keeps the fetch advance, nothing else
changes, and illop_evt is 1 in the S_EXEC cycle. -/
def Obligations.InvalidOpcodeIsReportedAndContinues : Prop :=
  ∀ s : State, s.Ready → invalidWord (s.load s.pc) = true →
    step s = .next { s with
      ir := s.load s.pc, pc := s.pc + 1#16, illop := true, xcause := .invalidOpcode, xinfo := s.load s.pc, fsm := .fetch } ∧
    ∀ cfg : Config, ((s.clock cfg .run).outputs cfg .run).illopEvt = true

/-- R105: UnimplementedTrap, over one step: the report is made with the word itself, the block enters S_FAULT and stays there
until reset, everything else keeps its value, and the faulted output is 1. -/
def Obligations.UnimplementedTrapIsFatal : Prop :=
  ∀ s : State, s.Ready → faultWord Config.standard (s.load s.pc) = true →
    ∃ t, step s = .next t ∧
      t = { s with
        ir := s.load s.pc, pc := s.pc + 1#16, xcause := .unimplementedTrap, xinfo := s.load s.pc, fsm := .fault } ∧
      (∀ inp : Inputs, (t.outputs Config.standard inp).faulted = true ∧ (t.outputs Config.standard inp).memRe = false ∧
        (t.outputs Config.standard inp).memWe = false) ∧
      ∀ inps : List Inputs, (∀ i ∈ inps, i.rst = false) → t.clockAll Config.standard inps = t

/-- R102: exactly the two conditions are raised, by exactly their words, with their codes; the address of the faulting
instruction is PC − 1. -/
def Obligations.ConditionsRaisedExactlyByTheirWords : Prop :=
  Cause.code .none = 0b00#2 ∧ Cause.code .invalidOpcode = 0b01#2 ∧ Cause.code .unimplementedTrap = 0b10#2 ∧
  ∀ s t : State, s.Ready → step s = .next t →
    (invalidWord (s.load s.pc) = true →
      t.xcause = .invalidOpcode ∧ t.xinfo = s.load s.pc ∧ t.illop = true ∧ t.fsm = .fetch ∧ t.pc - 1#16 = s.pc) ∧
    (faultWord Config.standard (s.load s.pc) = true →
      t.xcause = .unimplementedTrap ∧ t.xinfo = s.load s.pc ∧ t.illop = s.illop ∧ t.fsm = .fault ∧ t.pc - 1#16 = s.pc) ∧
    (invalidWord (s.load s.pc) = false → faultWord Config.standard (s.load s.pc) = false →
      t.xcause = s.xcause ∧ t.xinfo = s.xinfo ∧ t.illop = s.illop)

/-- R48, R126: a store is seen by the next fetch of the address, and the instruction that stores keeps the word latched at its
fetch. -/
def Obligations.StoreIsSeenByTheNextFetch : Prop :=
  ∀ (s : State) (i : Instr) (a : Addr) (sr : RegIdx), s.Ready → Memory.wf s.mem = true → decode (s.load s.pc) = i →
    s.fetch.storeAddress i = some a → i.reads.head? = some sr →
    ∃ t, step s = .next t ∧ t.ir = s.load s.pc ∧ t.load a = s.reg sr ∧ (t.pc = a → t.fetch.ir = s.reg sr)

/-- R26, R29: no instruction reads the report registers, IR or EA: two states at an instruction boundary that differ only there
step to states that agree on the registers, PC, CC, RUNNING, the FSM state and memory. -/
def Obligations.ReportAndLatchesDoNotSteerTheStep : Prop :=
  ∀ (s t t' : State) (illop : Bool) (xcause : Cause) (xinfo ir ea : Word), s.Ready →
    step s = .next t →
    step { s with illop := illop, xcause := xcause, xinfo := xinfo, ir := ir, ea := ea } = .next t' →
    t'.regs = t.regs ∧ t'.pc = t.pc ∧ t'.cc = t.cc ∧ t'.running = t.running ∧ t'.fsm = t.fsm ∧ t'.mem = t.mem

/-! ## Memory -/

/-- R35: a read returns the value of the most recent write to the address, or the value before all writes; at power-up that is
0x0000 everywhere. -/
def Obligations.ReadReturnsTheMostRecentWrite : Prop :=
  (∀ (m : Memory) (writes : List (Addr × Word)) (a : Addr), Memory.wf m = true →
    Memory.read (writes.foldl (fun m w => Memory.write m w.1 w.2) m) a =
      match writes.reverse.find? (fun w => w.1 == a) with
      | some w => w.2
      | none => Memory.read m a) ∧
  ∀ a : Addr, State.reset.load a = 0x0000#16

/-- R34: memory is the array its reads show: two canonical memories that read alike at every address are equal. The
canonical form is the model's own (log entry 1). -/
def Obligations.EqualReadsMeanEqualMemories : Prop :=
  ∀ m m' : Memory, Memory.wf m = true → Memory.wf m' = true → (∀ a : Addr, Memory.read m a = Memory.read m' a) → m = m'

/-! ## Reset, clock and host -/

/-- R118: what an edge with rst = 1 sets, from any state, whatever ce is; no access meanwhile; the next cycle with rst = 0 reads
M[PC]. -/
def Obligations.ResetEdgeSetsEveryRegister : Prop :=
  ∀ (cfg : Config) (s : State) (inp : Inputs), inp.rst = true →
    s.clock cfg inp =
      { regs := Vector.replicate 8 0x0000#16, pc := if inp.pcLoadEn then inp.pcLoadVal else cfg.pcReset, cc := .zero,
        running := true, illop := false, xcause := .none, xinfo := 0x0000#16, ir := 0x0000#16, ea := 0x0000#16,
        fsm := .fetch, mem := s.mem } ∧
    (s.outputs cfg inp).memRe = false ∧ (s.outputs cfg inp).memWe = false ∧
    ∀ inp' : Inputs, inp'.rst = false → inp'.ce = true →
      (s.clock cfg inp).portRequest cfg inp' = .read (s.clock cfg inp).pc

/-- R119: the host's PC load counts at an edge with rst = 1, and is ignored whenever rst = 0. -/
def Obligations.HostLoadsPcOnlyInReset : Prop :=
  (∀ (cfg : Config) (s : State) (inp : Inputs), inp.rst = true → inp.pcLoadEn = true → (s.clock cfg inp).pc = inp.pcLoadVal) ∧
  ∀ (cfg : Config) (s : State) (inp : Inputs) (en : Bool) (v : Word), inp.rst = false →
    s.clock cfg inp = s.clock cfg { inp with pcLoadEn := en, pcLoadVal := v }

/-- R32: the reset values; the first reset edge after power-up, without a host load, gives `State.reset` whatever the block held
before, since memory is 0x0000 at power-up. -/
def Obligations.ResetStateHasTheSpecifiedValues : Prop :=
  (∀ r : RegIdx, State.reset.reg r = 0x0000#16) ∧ State.reset.pc = 0x3000#16 ∧ State.reset.cc.bits = 0b010#3 ∧
  State.reset.running = true ∧ State.reset.illop = false ∧ State.reset.xcause.code = 0b00#2 ∧ State.reset.xinfo = 0x0000#16 ∧
  State.reset.ir = 0x0000#16 ∧ State.reset.ea = 0x0000#16 ∧ State.reset.fsm = .fetch ∧
  (∀ a : Addr, State.reset.load a = 0x0000#16) ∧
  (∀ (s : State) (inp : Inputs), s.mem = [] → inp.rst = true → inp.pcLoadEn = false →
    s.clock Config.standard inp = State.reset) ∧
  (∀ (s : State) (inp : Inputs), inp.rst = true → inp.pcLoadEn = true →
    (s.clock Config.standard inp).pc = inp.pcLoadVal) ∧
  ∀ (cfg : Config) (s : State) (inp : Inputs), inp.rst = true → (s.clock cfg inp).mem = s.mem

/-- R117: with ce = 0 and rst = 0 nothing changes and nothing is driven, so ce = 0 stretches a cycle without changing its
outcome: the cycles it inserts can be dropped from any sequence of inputs. -/
def Obligations.ClockEnableStretchesCycles : Prop :=
  (∀ (cfg : Config) (s : State) (inp : Inputs), inp.rst = false → inp.ce = false →
    s.clock cfg inp = s ∧ (s.outputs cfg inp).memRe = false ∧ (s.outputs cfg inp).memWe = false ∧
    (s.outputs cfg inp).instrDone = false ∧ (s.outputs cfg inp).illopEvt = false) ∧
  ∀ (cfg : Config) (s : State) (inps : List Inputs),
    s.clockAll cfg inps = s.clockAll cfg (inps.filter fun i => i.rst || i.ce)

/-- R122, R123: booting an image that fits puts its words at consecutive addresses from the origin on, leaves every other word,
sets PC to the origin and leaves the rest of the block in its reset state, whatever LOADER_WRAP is. -/
def Obligations.LoaderPlacesTheImage : Prop :=
  ∀ (cfg : Config) (lw : LoaderWrap) (s : State) (origin : Word) (ws : List Word), Memory.wf s.mem = true →
    origin.toNat + ws.length ≤ 65536 →
    ∃ t, s.boot cfg lw ((origin :: ws).flatMap fun w => [w.extractLsb' 8 8, w.extractLsb' 0 8]) = some t ∧
      (∀ k : Nat, (hk : k < ws.length) → t.load (origin + BitVec.ofNat 16 k) = ws[k]) ∧
      (∀ a : Addr, (a.toNat < origin.toNat ∨ origin.toNat + ws.length ≤ a.toNat) → t.load a = s.load a) ∧
      t = { State.reset with pc := origin, mem := t.mem }

/-! ## The clocked block -/

/-- R67: the S_FETCH cycle, and IR keeps its word until the next one. -/
def Obligations.FetchCycle : Prop :=
  (∀ (cfg : Config) (s : State), s.fsm = .fetch →
    s.request cfg = .read s.pc ∧
    s.clock cfg .run = { s with ir := s.load s.pc, pc := s.pc + 1#16, fsm := .exec }) ∧
  ∀ (cfg : Config) (s : State) (inp : Inputs), s.fsm ≠ .fetch → inp.rst = false → (s.clock cfg inp).ir = s.ir

/-- R68: the S_EXEC cycle by class: the memory access, the writes at the closing edge and the next state. -/
def Obligations.ExecCycleActsByClass : Prop :=
  ∀ (cfg : Config) (s : State), s.fsm = .exec →
    match decode s.ir with
    | .addReg dr sr1 _ sr2 => s.request cfg = .idle ∧ s.clock cfg .run =
        { s with regs := (s.setReg dr (s.reg sr1 + s.reg sr2)).regs, cc := setcc (s.reg sr1 + s.reg sr2), fsm := .fetch }
    | .addImm dr sr1 imm5 => s.request cfg = .idle ∧ s.clock cfg .run =
        { s with regs := (s.setReg dr (s.reg sr1 + sext imm5)).regs, cc := setcc (s.reg sr1 + sext imm5), fsm := .fetch }
    | .andReg dr sr1 _ sr2 => s.request cfg = .idle ∧ s.clock cfg .run =
        { s with regs := (s.setReg dr (s.reg sr1 &&& s.reg sr2)).regs, cc := setcc (s.reg sr1 &&& s.reg sr2), fsm := .fetch }
    | .andImm dr sr1 imm5 => s.request cfg = .idle ∧ s.clock cfg .run =
        { s with regs := (s.setReg dr (s.reg sr1 &&& sext imm5)).regs, cc := setcc (s.reg sr1 &&& sext imm5), fsm := .fetch }
    | .not dr sr1 _ => s.request cfg = .idle ∧ s.clock cfg .run =
        { s with regs := (s.setReg dr (~~~(s.reg sr1))).regs, cc := setcc (~~~(s.reg sr1)), fsm := .fetch }
    | .br n z p off => s.request cfg = .idle ∧ s.clock cfg .run =
        { s with pc := if branchTaken n z p s.cc then s.pc + sext off else s.pc, fsm := .fetch }
    | .ld dr off => s.request cfg = .read (s.pc + sext off) ∧ s.clock cfg .run =
        { s with
          regs := (s.setReg dr (s.load (s.pc + sext off))).regs, cc := setcc (s.load (s.pc + sext off)), fsm := .fetch }
    | .ldr dr b off => s.request cfg = .read (s.reg b + sext off) ∧ s.clock cfg .run =
        { s with
          regs := (s.setReg dr (s.load (s.reg b + sext off))).regs, cc := setcc (s.load (s.reg b + sext off)), fsm := .fetch }
    | .ldi _ off => s.request cfg = .read (s.pc + sext off) ∧ s.clock cfg .run =
        { s with ea := s.load (s.pc + sext off), fsm := .mem2 }
    | .lea dr off => s.request cfg = .idle ∧ s.clock cfg .run =
        { s with regs := (s.setReg dr (s.pc + sext off)).regs, cc := setcc (s.pc + sext off), fsm := .fetch }
    | .st sr off => s.request cfg = .write (s.pc + sext off) (s.reg sr) ∧ s.clock cfg .run =
        { s with mem := Memory.write s.mem (s.pc + sext off) (s.reg sr), fsm := .fetch }
    | .str sr b off => s.request cfg = .write (s.reg b + sext off) (s.reg sr) ∧ s.clock cfg .run =
        { s with mem := Memory.write s.mem (s.reg b + sext off) (s.reg sr), fsm := .fetch }
    | .sti _ off => s.request cfg = .read (s.pc + sext off) ∧ s.clock cfg .run =
        { s with ea := s.load (s.pc + sext off), fsm := .mem2 }
    | .trap _ v => s.request cfg = .idle ∧ s.clock cfg .run =
        if v = cfg.haltVector then { s with running := false, fsm := .halt }
        else { s with xcause := .unimplementedTrap, xinfo := s.ir, fsm := .fault }
    | .invalid0100 _ => s.request cfg = .idle ∧ s.clock cfg .run =
        { s with illop := true, xcause := .invalidOpcode, xinfo := s.ir, fsm := .fetch }
    | .invalid1000 _ => s.request cfg = .idle ∧ s.clock cfg .run =
        { s with illop := true, xcause := .invalidOpcode, xinfo := s.ir, fsm := .fetch }
    | .invalid1100 _ => s.request cfg = .idle ∧ s.clock cfg .run =
        { s with illop := true, xcause := .invalidOpcode, xinfo := s.ir, fsm := .fetch }
    | .invalid1101 _ => s.request cfg = .idle ∧ s.clock cfg .run =
        { s with illop := true, xcause := .invalidOpcode, xinfo := s.ir, fsm := .fetch }

/-- R69: the S_MEM2 cycle of LDI and of STI, through EA; S_MEM2 is entered only from S_EXEC with one of the two in IR. -/
def Obligations.SecondAccessCycle : Prop :=
  (∀ (cfg : Config) (s : State), s.fsm = .mem2 → s.ir.extractLsb' 12 4 = 0b1010#4 →
    s.request cfg = .read s.ea ∧ s.clock cfg .run =
      { s with regs := (s.setReg (s.ir.extractLsb' 9 3) (s.load s.ea)).regs, cc := setcc (s.load s.ea), fsm := .fetch }) ∧
  (∀ (cfg : Config) (s : State), s.fsm = .mem2 → s.ir.extractLsb' 12 4 = 0b1011#4 →
    s.request cfg = .write s.ea (s.reg (s.ir.extractLsb' 9 3)) ∧ s.clock cfg .run =
      { s with mem := Memory.write s.mem s.ea (s.reg (s.ir.extractLsb' 9 3)), fsm := .fetch }) ∧
  ∀ (cfg : Config) (s : State) (inp : Inputs), s.fsm ≠ .mem2 → (s.clock cfg inp).fsm = .mem2 →
    s.fsm = .exec ∧ (s.ir.extractLsb' 12 4 = 0b1010#4 ∨ s.ir.extractLsb' 12 4 = 0b1011#4)

/-- R47: the memory port. Never a read and a write in one cycle; nothing is driven when ce = 0 or rst = 1, and an idle cycle
drives zeros; a write cycle stores its word at its address, seen by any later read, and every other cycle leaves memory. -/
def Obligations.MemoryPortProtocol : Prop :=
  ∀ (cfg : Config) (s : State) (inp : Inputs),
    ((s.outputs cfg inp).memRe && (s.outputs cfg inp).memWe) = false ∧
    (inp.rst = true ∨ inp.ce = false → (s.outputs cfg inp).memRe = false ∧ (s.outputs cfg inp).memWe = false) ∧
    ((s.outputs cfg inp).memRe = false → (s.outputs cfg inp).memWe = false →
      (s.outputs cfg inp).memAddr = 0x0000#16 ∧ (s.outputs cfg inp).memWdata = 0x0000#16) ∧
    ((s.outputs cfg inp).memWe = false → (s.clock cfg inp).mem = s.mem) ∧
    ((s.outputs cfg inp).memWe = true → Memory.wf s.mem = true →
      (s.clock cfg inp).load (s.outputs cfg inp).memAddr = (s.outputs cfg inp).memWdata ∧
      ∀ a : Addr, a ≠ (s.outputs cfg inp).memAddr → (s.clock cfg inp).load a = s.load a)

/-- R40, R44: the accesses of an instruction on the port, in order. -/
def Obligations.AccessesHappenInTheOrderOfTheTable : Prop :=
  ∀ (cfg : Config) (s : State), s.fsm = .fetch →
    s.busTrace cfg (cyclesOf (decode (s.load s.pc))) =
      match decode (s.load s.pc) with
      | .ld _ off => [.read s.pc, .read (s.pc + 1#16 + sext off)]
      | .ldr _ b off => [.read s.pc, .read (s.reg b + sext off)]
      | .ldi _ off => [.read s.pc, .read (s.pc + 1#16 + sext off), .read (s.load (s.pc + 1#16 + sext off))]
      | .st sr off => [.read s.pc, .write (s.pc + 1#16 + sext off) (s.reg sr)]
      | .str sr b off => [.read s.pc, .write (s.reg b + sext off) (s.reg sr)]
      | .sti sr off =>
        [.read s.pc, .read (s.pc + 1#16 + sext off), .write (s.load (s.pc + 1#16 + sext off)) (s.reg sr)]
      | .addReg _ _ _ _ => [.read s.pc]
      | .addImm _ _ _ => [.read s.pc]
      | .andReg _ _ _ _ => [.read s.pc]
      | .andImm _ _ _ => [.read s.pc]
      | .not _ _ _ => [.read s.pc]
      | .br _ _ _ _ => [.read s.pc]
      | .lea _ _ => [.read s.pc]
      | .trap _ _ => [.read s.pc]
      | .invalid0100 _ => [.read s.pc]
      | .invalid1000 _ => [.read s.pc]
      | .invalid1100 _ => [.read s.pc]
      | .invalid1101 _ => [.read s.pc]

/-- R79, R80: from an instruction boundary of a running block, clocking the block until instr_done has been 1 once (2 cycles,
or 3 for LDI and STI) gives exactly the state of the instruction-level step, for every value of the parameters, and leaves the
FSM in S_FETCH, S_HALT or S_FAULT. -/
def Obligations.ClockedBlockRefinesTheStep : Prop :=
  ∀ (cfg : Config) (s : State), s.Ready →
    stepWith cfg s = .next (s.runClock cfg (cyclesOf (decode (s.load s.pc)))) ∧
    (∀ k : Nat, k < cyclesOf (decode (s.load s.pc)) →
      (((s.runClock cfg k).outputs cfg .run).instrDone = true ↔ k + 1 = cyclesOf (decode (s.load s.pc)))) ∧
    ((s.runClock cfg (cyclesOf (decode (s.load s.pc)))).fsm = .fetch ∨
      (s.runClock cfg (cyclesOf (decode (s.load s.pc)))).fsm = .halt ∨
      (s.runClock cfg (cyclesOf (decode (s.load s.pc)))).fsm = .fault)

/-- The model's reading of a step from inside an instruction (log entry 4): from S_EXEC or S_MEM2, too, a step is the clocked
block run to the end of the instruction in progress. -/
def Obligations.StepCompletesTheInstructionInProgress : Prop :=
  (∀ (cfg : Config) (s : State), s.fsm = .exec → s.running = true →
    stepWith cfg s = .next (s.runClock cfg (cyclesOf (decode s.ir) - 1))) ∧
  ∀ (cfg : Config) (s : State), s.fsm = .mem2 → s.running = true →
    s.ir.extractLsb' 12 4 = 0b1010#4 ∨ s.ir.extractLsb' 12 4 = 0b1011#4 →
    stepWith cfg s = .next (s.runClock cfg 1)

/-! ## Invariants -/

/-- R23, R26, R27, R69, R108: the reset state is legal. -/
def Obligations.ResetStateIsLegal : Prop :=
  State.Legal Config.standard State.reset

/-- A step from any legal state, reachable or not, leads to a legal state: memory stays canonical, HALTED is 1 exactly when
RUNNING is 0, S_FAULT and XCAUSE agree, the report registers agree with each other, and IR and EA with the FSM state. -/
def Obligations.StepKeepsTheStateLegal : Prop :=
  ∀ s t : State, State.Legal Config.standard s → step s = .next t → State.Legal Config.standard t

/-- The same of every clock edge, with any inputs and any parameters. -/
def Obligations.ClockEdgeKeepsTheStateLegal : Prop :=
  ∀ (cfg : Config) (s : State) (inp : Inputs), State.Legal cfg s → State.Legal cfg (s.clock cfg inp)

/-- R26: ILLOP is sticky: a step never clears it, and a clock edge clears it only with rst = 1. -/
def Obligations.IllopIsSticky : Prop :=
  (∀ s t : State, s.illop = true → step s = .next t → t.illop = true) ∧
  ∀ (cfg : Config) (s : State) (inp : Inputs), s.illop = true → (s.clock cfg inp).illop = false → inp.rst = true
end

