-- ==== Sys2Proof/Laws/State.lean ====
section
/-! SUPPORT. What each update of the state does to each field, and to a register or memory read: one lemma a field. -/

namespace Sys2Proof.Machine

variable (s : State)

@[simp] theorem State.setReg_pc (r : RegIdx) (v : Word) : (s.setReg r v).pc = s.pc := rfl
@[simp] theorem State.setReg_cc (r : RegIdx) (v : Word) : (s.setReg r v).cc = s.cc := rfl
@[simp] theorem State.setReg_running (r : RegIdx) (v : Word) : (s.setReg r v).running = s.running := rfl
@[simp] theorem State.setReg_illop (r : RegIdx) (v : Word) : (s.setReg r v).illop = s.illop := rfl
@[simp] theorem State.setReg_xcause (r : RegIdx) (v : Word) : (s.setReg r v).xcause = s.xcause := rfl
@[simp] theorem State.setReg_xinfo (r : RegIdx) (v : Word) : (s.setReg r v).xinfo = s.xinfo := rfl
@[simp] theorem State.setReg_ir (r : RegIdx) (v : Word) : (s.setReg r v).ir = s.ir := rfl
@[simp] theorem State.setReg_ea (r : RegIdx) (v : Word) : (s.setReg r v).ea = s.ea := rfl
@[simp] theorem State.setReg_fsm (r : RegIdx) (v : Word) : (s.setReg r v).fsm = s.fsm := rfl
@[simp] theorem State.setReg_mem (r : RegIdx) (v : Word) : (s.setReg r v).mem = s.mem := rfl
@[simp] theorem State.setReg_load (r : RegIdx) (v : Word) (c : Addr) : (s.setReg r v).load c = s.load c := rfl

@[simp] theorem State.setDest_regs (r : RegIdx) (v : Word) : (s.setDest r v).regs = (s.setReg r v).regs := rfl
@[simp] theorem State.setDest_pc (r : RegIdx) (v : Word) : (s.setDest r v).pc = s.pc := rfl
@[simp] theorem State.setDest_cc (r : RegIdx) (v : Word) : (s.setDest r v).cc = setcc v := rfl
@[simp] theorem State.setDest_running (r : RegIdx) (v : Word) : (s.setDest r v).running = s.running := rfl
@[simp] theorem State.setDest_illop (r : RegIdx) (v : Word) : (s.setDest r v).illop = s.illop := rfl
@[simp] theorem State.setDest_xcause (r : RegIdx) (v : Word) : (s.setDest r v).xcause = s.xcause := rfl
@[simp] theorem State.setDest_xinfo (r : RegIdx) (v : Word) : (s.setDest r v).xinfo = s.xinfo := rfl
@[simp] theorem State.setDest_ir (r : RegIdx) (v : Word) : (s.setDest r v).ir = s.ir := rfl
@[simp] theorem State.setDest_ea (r : RegIdx) (v : Word) : (s.setDest r v).ea = s.ea := rfl
@[simp] theorem State.setDest_fsm (r : RegIdx) (v : Word) : (s.setDest r v).fsm = s.fsm := rfl
@[simp] theorem State.setDest_mem (r : RegIdx) (v : Word) : (s.setDest r v).mem = s.mem := rfl
@[simp] theorem State.setDest_load (r : RegIdx) (v : Word) (c : Addr) : (s.setDest r v).load c = s.load c := rfl
@[simp] theorem State.setDest_reg (r : RegIdx) (v : Word) (q : RegIdx) : (s.setDest r v).reg q = (s.setReg r v).reg q := rfl

@[simp] theorem State.store_regs (a : Addr) (v : Word) : (s.store a v).regs = s.regs := rfl
@[simp] theorem State.store_pc (a : Addr) (v : Word) : (s.store a v).pc = s.pc := rfl
@[simp] theorem State.store_cc (a : Addr) (v : Word) : (s.store a v).cc = s.cc := rfl
@[simp] theorem State.store_running (a : Addr) (v : Word) : (s.store a v).running = s.running := rfl
@[simp] theorem State.store_illop (a : Addr) (v : Word) : (s.store a v).illop = s.illop := rfl
@[simp] theorem State.store_xcause (a : Addr) (v : Word) : (s.store a v).xcause = s.xcause := rfl
@[simp] theorem State.store_xinfo (a : Addr) (v : Word) : (s.store a v).xinfo = s.xinfo := rfl
@[simp] theorem State.store_ir (a : Addr) (v : Word) : (s.store a v).ir = s.ir := rfl
@[simp] theorem State.store_ea (a : Addr) (v : Word) : (s.store a v).ea = s.ea := rfl
@[simp] theorem State.store_fsm (a : Addr) (v : Word) : (s.store a v).fsm = s.fsm := rfl
@[simp] theorem State.store_mem (a : Addr) (v : Word) : (s.store a v).mem = Memory.write s.mem a v := rfl
@[simp] theorem State.store_reg (a : Addr) (v : Word) (q : RegIdx) : (s.store a v).reg q = s.reg q := rfl

@[simp] theorem State.latchPointer_regs (p : Word) : (s.latchPointer p).regs = s.regs := rfl
@[simp] theorem State.latchPointer_pc (p : Word) : (s.latchPointer p).pc = s.pc := rfl
@[simp] theorem State.latchPointer_cc (p : Word) : (s.latchPointer p).cc = s.cc := rfl
@[simp] theorem State.latchPointer_running (p : Word) : (s.latchPointer p).running = s.running := rfl
@[simp] theorem State.latchPointer_illop (p : Word) : (s.latchPointer p).illop = s.illop := rfl
@[simp] theorem State.latchPointer_xcause (p : Word) : (s.latchPointer p).xcause = s.xcause := rfl
@[simp] theorem State.latchPointer_xinfo (p : Word) : (s.latchPointer p).xinfo = s.xinfo := rfl
@[simp] theorem State.latchPointer_ir (p : Word) : (s.latchPointer p).ir = s.ir := rfl
@[simp] theorem State.latchPointer_ea (p : Word) : (s.latchPointer p).ea = p := rfl
@[simp] theorem State.latchPointer_fsm (p : Word) : (s.latchPointer p).fsm = s.fsm := rfl
@[simp] theorem State.latchPointer_mem (p : Word) : (s.latchPointer p).mem = s.mem := rfl
@[simp] theorem State.latchPointer_reg (p : Word) (q : RegIdx) : (s.latchPointer p).reg q = s.reg q := rfl
@[simp] theorem State.latchPointer_load (p : Word) (c : Addr) : (s.latchPointer p).load c = s.load c := rfl

@[simp] theorem State.jump_regs (a : Addr) : (s.jump a).regs = s.regs := rfl
@[simp] theorem State.jump_pc (a : Addr) : (s.jump a).pc = a := rfl
@[simp] theorem State.jump_cc (a : Addr) : (s.jump a).cc = s.cc := rfl
@[simp] theorem State.jump_running (a : Addr) : (s.jump a).running = s.running := rfl
@[simp] theorem State.jump_illop (a : Addr) : (s.jump a).illop = s.illop := rfl
@[simp] theorem State.jump_xcause (a : Addr) : (s.jump a).xcause = s.xcause := rfl
@[simp] theorem State.jump_xinfo (a : Addr) : (s.jump a).xinfo = s.xinfo := rfl
@[simp] theorem State.jump_ir (a : Addr) : (s.jump a).ir = s.ir := rfl
@[simp] theorem State.jump_ea (a : Addr) : (s.jump a).ea = s.ea := rfl
@[simp] theorem State.jump_fsm (a : Addr) : (s.jump a).fsm = s.fsm := rfl
@[simp] theorem State.jump_mem (a : Addr) : (s.jump a).mem = s.mem := rfl
@[simp] theorem State.jump_reg (a : Addr) (q : RegIdx) : (s.jump a).reg q = s.reg q := rfl
@[simp] theorem State.jump_load (a : Addr) (c : Addr) : (s.jump a).load c = s.load c := rfl

@[simp] theorem State.fetch_regs : (s.fetch).regs = s.regs := rfl
@[simp] theorem State.fetch_pc : (s.fetch).pc = s.pc + 1#16 := rfl
@[simp] theorem State.fetch_cc : (s.fetch).cc = s.cc := rfl
@[simp] theorem State.fetch_running : (s.fetch).running = s.running := rfl
@[simp] theorem State.fetch_illop : (s.fetch).illop = s.illop := rfl
@[simp] theorem State.fetch_xcause : (s.fetch).xcause = s.xcause := rfl
@[simp] theorem State.fetch_xinfo : (s.fetch).xinfo = s.xinfo := rfl
@[simp] theorem State.fetch_ir : (s.fetch).ir = s.load s.pc := rfl
@[simp] theorem State.fetch_ea : (s.fetch).ea = s.ea := rfl
@[simp] theorem State.fetch_fsm : (s.fetch).fsm = .exec := rfl
@[simp] theorem State.fetch_mem : (s.fetch).mem = s.mem := rfl
@[simp] theorem State.fetch_reg  (q : RegIdx) : (s.fetch).reg q = s.reg q := rfl
@[simp] theorem State.fetch_load  (c : Addr) : (s.fetch).load c = s.load c := rfl

@[simp] theorem State.complete_regs : (s.complete).regs = s.regs := rfl
@[simp] theorem State.complete_pc : (s.complete).pc = s.pc := rfl
@[simp] theorem State.complete_cc : (s.complete).cc = s.cc := rfl
@[simp] theorem State.complete_running : (s.complete).running = s.running := rfl
@[simp] theorem State.complete_illop : (s.complete).illop = s.illop := rfl
@[simp] theorem State.complete_xcause : (s.complete).xcause = s.xcause := rfl
@[simp] theorem State.complete_xinfo : (s.complete).xinfo = s.xinfo := rfl
@[simp] theorem State.complete_ir : (s.complete).ir = s.ir := rfl
@[simp] theorem State.complete_ea : (s.complete).ea = s.ea := rfl
@[simp] theorem State.complete_fsm : (s.complete).fsm = .fetch := rfl
@[simp] theorem State.complete_mem : (s.complete).mem = s.mem := rfl
@[simp] theorem State.complete_reg  (q : RegIdx) : (s.complete).reg q = s.reg q := rfl
@[simp] theorem State.complete_load  (c : Addr) : (s.complete).load c = s.load c := rfl

@[simp] theorem State.halt_regs : (s.halt).regs = s.regs := rfl
@[simp] theorem State.halt_pc : (s.halt).pc = s.pc := rfl
@[simp] theorem State.halt_cc : (s.halt).cc = s.cc := rfl
@[simp] theorem State.halt_running : (s.halt).running = false := rfl
@[simp] theorem State.halt_illop : (s.halt).illop = s.illop := rfl
@[simp] theorem State.halt_xcause : (s.halt).xcause = s.xcause := rfl
@[simp] theorem State.halt_xinfo : (s.halt).xinfo = s.xinfo := rfl
@[simp] theorem State.halt_ir : (s.halt).ir = s.ir := rfl
@[simp] theorem State.halt_ea : (s.halt).ea = s.ea := rfl
@[simp] theorem State.halt_fsm : (s.halt).fsm = .halt := rfl
@[simp] theorem State.halt_mem : (s.halt).mem = s.mem := rfl
@[simp] theorem State.halt_reg  (q : RegIdx) : (s.halt).reg q = s.reg q := rfl
@[simp] theorem State.halt_load  (c : Addr) : (s.halt).load c = s.load c := rfl

@[simp] theorem State.raise_invalidOpcode_regs : (s.raise .invalidOpcode).regs = s.regs := rfl
@[simp] theorem State.raise_invalidOpcode_pc : (s.raise .invalidOpcode).pc = s.pc := rfl
@[simp] theorem State.raise_invalidOpcode_cc : (s.raise .invalidOpcode).cc = s.cc := rfl
@[simp] theorem State.raise_invalidOpcode_running : (s.raise .invalidOpcode).running = s.running := rfl
@[simp] theorem State.raise_invalidOpcode_illop : (s.raise .invalidOpcode).illop = true := rfl
@[simp] theorem State.raise_invalidOpcode_xcause : (s.raise .invalidOpcode).xcause = .invalidOpcode := rfl
@[simp] theorem State.raise_invalidOpcode_xinfo : (s.raise .invalidOpcode).xinfo = s.ir := rfl
@[simp] theorem State.raise_invalidOpcode_ir : (s.raise .invalidOpcode).ir = s.ir := rfl
@[simp] theorem State.raise_invalidOpcode_ea : (s.raise .invalidOpcode).ea = s.ea := rfl
@[simp] theorem State.raise_invalidOpcode_fsm : (s.raise .invalidOpcode).fsm = .fetch := rfl
@[simp] theorem State.raise_invalidOpcode_mem : (s.raise .invalidOpcode).mem = s.mem := rfl
@[simp] theorem State.raise_invalidOpcode_reg  (q : RegIdx) : (s.raise .invalidOpcode).reg q = s.reg q := rfl
@[simp] theorem State.raise_invalidOpcode_load  (c : Addr) : (s.raise .invalidOpcode).load c = s.load c := rfl

@[simp] theorem State.raise_unimplementedTrap_regs : (s.raise .unimplementedTrap).regs = s.regs := rfl
@[simp] theorem State.raise_unimplementedTrap_pc : (s.raise .unimplementedTrap).pc = s.pc := rfl
@[simp] theorem State.raise_unimplementedTrap_cc : (s.raise .unimplementedTrap).cc = s.cc := rfl
@[simp] theorem State.raise_unimplementedTrap_running : (s.raise .unimplementedTrap).running = s.running := rfl
@[simp] theorem State.raise_unimplementedTrap_illop : (s.raise .unimplementedTrap).illop = s.illop := rfl
@[simp] theorem State.raise_unimplementedTrap_xcause : (s.raise .unimplementedTrap).xcause = .unimplementedTrap := rfl
@[simp] theorem State.raise_unimplementedTrap_xinfo : (s.raise .unimplementedTrap).xinfo = s.ir := rfl
@[simp] theorem State.raise_unimplementedTrap_ir : (s.raise .unimplementedTrap).ir = s.ir := rfl
@[simp] theorem State.raise_unimplementedTrap_ea : (s.raise .unimplementedTrap).ea = s.ea := rfl
@[simp] theorem State.raise_unimplementedTrap_fsm : (s.raise .unimplementedTrap).fsm = .fault := rfl
@[simp] theorem State.raise_unimplementedTrap_mem : (s.raise .unimplementedTrap).mem = s.mem := rfl
@[simp] theorem State.raise_unimplementedTrap_reg  (q : RegIdx) : (s.raise .unimplementedTrap).reg q = s.reg q := rfl
@[simp] theorem State.raise_unimplementedTrap_load  (c : Addr) : (s.raise .unimplementedTrap).load c = s.load c := rfl

@[simp] theorem State.withWordAtPc_regs (w : Word) : (s.withWordAtPc w).regs = s.regs := rfl
@[simp] theorem State.withWordAtPc_pc (w : Word) : (s.withWordAtPc w).pc = s.pc := rfl
@[simp] theorem State.withWordAtPc_cc (w : Word) : (s.withWordAtPc w).cc = s.cc := rfl
@[simp] theorem State.withWordAtPc_running (w : Word) : (s.withWordAtPc w).running = true := rfl
@[simp] theorem State.withWordAtPc_illop (w : Word) : (s.withWordAtPc w).illop = s.illop := rfl
@[simp] theorem State.withWordAtPc_xcause (w : Word) : (s.withWordAtPc w).xcause = s.xcause := rfl
@[simp] theorem State.withWordAtPc_xinfo (w : Word) : (s.withWordAtPc w).xinfo = s.xinfo := rfl
@[simp] theorem State.withWordAtPc_ir (w : Word) : (s.withWordAtPc w).ir = s.ir := rfl
@[simp] theorem State.withWordAtPc_ea (w : Word) : (s.withWordAtPc w).ea = s.ea := rfl
@[simp] theorem State.withWordAtPc_fsm (w : Word) : (s.withWordAtPc w).fsm = .fetch := rfl
@[simp] theorem State.withWordAtPc_mem (w : Word) : (s.withWordAtPc w).mem = Memory.write s.mem s.pc w := rfl
@[simp] theorem State.withWordAtPc_reg (w : Word) (q : RegIdx) : (s.withWordAtPc w).reg q = s.reg q := rfl

variable (cfg : Config) (load : Option Word)

@[simp] theorem State.resetEdge_regs : (s.resetEdge cfg load).regs = Vector.replicate 8 0x0000#16 := rfl
@[simp] theorem State.resetEdge_pc : (s.resetEdge cfg load).pc = load.getD cfg.pcReset := rfl
@[simp] theorem State.resetEdge_cc : (s.resetEdge cfg load).cc = .zero := rfl
@[simp] theorem State.resetEdge_running : (s.resetEdge cfg load).running = true := rfl
@[simp] theorem State.resetEdge_illop : (s.resetEdge cfg load).illop = false := rfl
@[simp] theorem State.resetEdge_xcause : (s.resetEdge cfg load).xcause = .none := rfl
@[simp] theorem State.resetEdge_xinfo : (s.resetEdge cfg load).xinfo = 0x0000#16 := rfl
@[simp] theorem State.resetEdge_ir : (s.resetEdge cfg load).ir = 0x0000#16 := rfl
@[simp] theorem State.resetEdge_ea : (s.resetEdge cfg load).ea = 0x0000#16 := rfl
@[simp] theorem State.resetEdge_fsm : (s.resetEdge cfg load).fsm = .fetch := rfl
@[simp] theorem State.resetEdge_mem : (s.resetEdge cfg load).mem = s.mem := rfl
@[simp] theorem State.resetEdge_load (c : Addr) : (s.resetEdge cfg load).load c = s.load c := rfl

/-- The three cases of a rising edge (R117, R118). -/
theorem State.clock_cases (inp : Inputs) :
    (inp.rst = true ∧ s.clock cfg inp = s.resetEdge cfg (if inp.pcLoadEn then some inp.pcLoadVal else none)) ∨
      (inp.rst = false ∧ inp.ce = true ∧ s.clock cfg inp = s.activeEdge cfg) ∨
      (inp.rst = false ∧ inp.ce = false ∧ s.clock cfg inp = s) := by
  cases hr : inp.rst <;> cases hc : inp.ce <;> simp [State.clock, hr, hc]

/-- With rst = 0 and ce = 1 the edge is the active one. -/
@[simp] theorem State.clock_run : s.clock cfg .run = s.activeEdge cfg := rfl

end Sys2Proof.Machine
end

