-- ==== Sys2Proof/Laws/Memory.lean ====
section
/-! SUPPORT. The laws of memory and of the register file: a read after a write, and the canonical form (R14, R34, R35). -/

namespace Sys2Proof.Machine

/-- Entries of a canonical memory from `lo` on lie at `lo` or above: below it, nothing is listed. -/
theorem Memory.readAt_below {m : Memory} {lo a : Nat} (h : Memory.wfFrom lo m = true) (ha : a < lo) :
    Memory.readAt m a = Memory.unlisted := by
  induction m generalizing lo with
  | nil => rfl
  | cons c m ih =>
    obtain ⟨b, w⟩ := c
    simp only [Memory.wfFrom, Bool.and_eq_true, decide_eq_true_eq] at h
    obtain ⟨⟨⟨hlo, -⟩, -⟩, hm⟩ := h
    have : a ≠ b := by omega
    simp only [Memory.readAt, this, if_false]
    exact ih hm (by omega)

/-- A lower bound of a canonical memory may be lowered. -/
theorem Memory.wfFrom_mono {m : Memory} {lo lo' : Nat} (h : Memory.wfFrom lo m = true) (hl : lo' ≤ lo) :
    Memory.wfFrom lo' m = true := by
  cases m with
  | nil => rfl
  | cons c m =>
    obtain ⟨b, w⟩ := c
    simp only [Memory.wfFrom, Bool.and_eq_true, decide_eq_true_eq] at h ⊢
    exact ⟨⟨⟨by omega, h.1.1.2⟩, h.1.2⟩, h.2⟩

/-- A write keeps the canonical form above a lower bound of the address. -/
theorem Memory.wfFrom_writeAt {m : Memory} {lo a : Nat} {v : Word} (h : Memory.wfFrom lo m = true) (hlo : lo ≤ a)
    (ha : a < 65536) : Memory.wfFrom lo (Memory.writeAt m a v) = true := by
  induction m generalizing lo with
  | nil =>
    by_cases hv : v = Memory.unlisted <;> simp [Memory.writeAt, Memory.wfFrom, hv, hlo, ha]
  | cons c m ih =>
    obtain ⟨b, w⟩ := c
    have h' := h
    simp only [Memory.wfFrom, Bool.and_eq_true, decide_eq_true_eq] at h'
    obtain ⟨⟨⟨hb, hb'⟩, hw⟩, hm⟩ := h'
    unfold Memory.writeAt
    split
    · split
      · exact h
      · rename_i hab hv
        simp only [Memory.wfFrom, Bool.and_eq_true, decide_eq_true_eq]
        exact ⟨⟨⟨hlo, ha⟩, hv⟩, ⟨⟨⟨by omega, hb'⟩, hw⟩, hm⟩⟩
    · split
      · rename_i hab hab'
        subst hab'
        split
        · exact Memory.wfFrom_mono hm (by omega)
        · rename_i hv
          simp only [Memory.wfFrom, Bool.and_eq_true, decide_eq_true_eq]
          exact ⟨⟨⟨hlo, ha⟩, hv⟩, hm⟩
      · simp only [Memory.wfFrom, Bool.and_eq_true, decide_eq_true_eq]
        exact ⟨⟨⟨hb, hb'⟩, hw⟩, ih hm (by omega)⟩

/-- The word at any address after a write to a canonical memory. -/
theorem Memory.readAt_writeAt {m : Memory} {lo a c : Nat} {v : Word} (h : Memory.wfFrom lo m = true) :
    Memory.readAt (Memory.writeAt m a v) c = if c = a then v else Memory.readAt m c := by
  induction m generalizing lo with
  | nil =>
    by_cases hv : v = Memory.unlisted <;> by_cases hc : c = a <;> simp [Memory.writeAt, Memory.readAt, hv, hc]
  | cons e m ih =>
    obtain ⟨b, w⟩ := e
    simp only [Memory.wfFrom, Bool.and_eq_true, decide_eq_true_eq] at h
    obtain ⟨-, hm⟩ := h
    have hbelow : ∀ x, x < b + 1 → Memory.readAt m x = Memory.unlisted := fun x hx => Memory.readAt_below hm hx
    unfold Memory.writeAt
    split
    · rename_i hab
      split
      · rename_i hv
        by_cases hc : c = a
        · have hcb : c ≠ b := by omega
          simp [Memory.readAt, hc ▸ hcb, hc, hv, hbelow a (by omega)]
        · simp [hc]
      · by_cases hc : c = a <;> simp [Memory.readAt, hc]
    · split
      · rename_i hab
        subst hab
        split
        · rename_i hv
          by_cases hc : c = a
          · simp [hc, hv, hbelow a (by omega)]
          · simp [Memory.readAt, hc]
        · by_cases hc : c = a <;> simp [Memory.readAt, hc]
      · rename_i hab hne
        by_cases hc : c = b
        · simp [Memory.readAt, hc]
          omega
        · simp only [Memory.readAt, hc, if_false]
          exact ih hm

/-- Every write keeps the canonical form. -/
theorem Memory.wf_write {m : Memory} (h : Memory.wf m = true) (a : Addr) (v : Word) :
    Memory.wf (Memory.write m a v) = true :=
  Memory.wfFrom_writeAt h (Nat.zero_le _) a.isLt

/-- The read of a word after a write. -/
theorem Memory.read_write {m : Memory} (h : Memory.wf m = true) (a c : Addr) (v : Word) :
    Memory.read (Memory.write m a v) c = if c = a then v else Memory.read m c := by
  have := Memory.readAt_writeAt (a := a.toNat) (c := c.toNat) (v := v) h
  by_cases hc : c = a
  · subst hc
    simpa [Memory.read, Memory.write] using this
  · have hn : c.toNat ≠ a.toNat := fun e => hc (BitVec.eq_of_toNat_eq e)
    simpa [Memory.read, Memory.write, hc, hn] using this

/-- The memory of the reset state is in canonical form. -/
theorem Memory.wf_reset : Memory.wf State.reset.mem = true := rfl

/-- The read of a word of the state after a store. -/
theorem State.load_store {s : State} (h : Memory.wf s.mem = true) (a c : Addr) (v : Word) :
    (s.store a v).load c = if c = a then v else s.load c :=
  Memory.read_write h a c v

/-- The read of a register after a write (R14). -/
theorem State.reg_setReg (s : State) (r q : RegIdx) (v : Word) :
    (s.setReg r v).reg q = if q = r then v else s.reg q := by
  by_cases hq : q = r
  · subst hq
    simp [State.reg, State.setReg]
  · have hn : r.toNat ≠ q.toNat := fun e => hq (BitVec.eq_of_toNat_eq e.symm)
    simp [State.reg, State.setReg, hq, hn]

/-- Placing an image keeps the canonical form, whatever LOADER_WRAP is (R122). -/
theorem placeWords_wf {lw : LoaderWrap} {ws : List Word} {m m' : Memory} {a : Nat} (hm : Memory.wf m = true)
    (h : placeWords lw m a ws = some m') : Memory.wf m' = true := by
  induction ws generalizing m a with
  | nil =>
    obtain rfl : m = m' := by simpa [placeWords] using h
    exact hm
  | cons v vs ih =>
    unfold placeWords at h
    split at h
    · exact ih (Memory.wf_write hm _ _) h
    · cases lw with
      | wrap => exact ih (Memory.wf_write hm _ _) h
      | truncate =>
        obtain rfl : m = m' := by simpa using h
        exact hm
      | refuse => simp at h

end Sys2Proof.Machine
end

