-- ==== Sys2Proof/Laws/Exec.lean ====
section
/-! SUPPORT. The operand forms and the step in the words of the core library, and one equation for each case of a step, which
later proofs cite instead of unfolding. -/

namespace Sys2Proof.Machine

/-- R8's sign extension is the library's. -/
theorem sext_eq_signExtend {n : Nat} (v : BitVec n) (hn : n ≤ 16) : sext v = v.signExtend 16 := by
  ext k hk
  simp only [sext, BitVec.getElem_signExtend]
  by_cases hkn : k < n
  · split <;> simp [hkn, BitVec.getElem_setWidth, BitVec.getLsbD_eq_getElem]
  · have hkn' : n ≤ k := by omega
    have hz : v.getLsbD k = false := BitVec.getLsbD_of_ge v k hkn'
    have hones : ∀ j, j < 16 → (0xFFFF#16).getLsbD j = true := by decide
    split
    · rename_i hm
      simp [hkn, hz, hm, BitVec.getElem_setWidth, hones (k - n) (by omega)]
    · rename_i hm
      simp [hz, hm, BitVec.getElem_setWidth]

/-- The execute phase at the default parameters is `exec`. -/
theorem execWith_standard (i : Instr) (s : State) : execWith Config.standard i s = exec i s := by
  cases i <;> rfl

/-- A step of a block with any parameters, by its case (R63, R64). -/
theorem stepWith_fetch (cfg : Config) {s : State} (hf : s.fsm = .fetch) (hr : s.running = true) :
    stepWith cfg s = execWith cfg (decode s.fetch.ir) s.fetch := by
  simp [stepWith, hf, hr]

theorem stepWith_exec (cfg : Config) {s : State} (hf : s.fsm = .exec) (hr : s.running = true) :
    stepWith cfg s = execWith cfg (decode s.ir) s := by
  simp [stepWith, hf, hr]

theorem stepWith_mem2 (cfg : Config) {s : State} (hf : s.fsm = .mem2) (hr : s.running = true) :
    stepWith cfg s = .next (s.secondAccess (decode s.ir)) := by
  simp [stepWith, hf, hr]

/-- A block that is not running, or stands in S_HALT or S_FAULT, stays as it is. -/
theorem stepWith_stopped (cfg : Config) {s : State} (h : s.running = false ∨ s.fsm = .halt ∨ s.fsm = .fault) :
    stepWith cfg s = .next s := by
  unfold stepWith
  rcases h with h | h | h <;> cases hr : s.running <;> simp_all

/-- What happens to the memory in one instruction: at most one store, of the named address. -/
theorem exec_mem {i : Instr} {s t : State} (h : exec i s = .next t) :
    t.mem = s.mem ∨ ∃ a r, s.storeAddress i = some a ∧ t.mem = Memory.write s.mem a (s.reg r) := by
  cases i with
  | st sr off => cases h; exact .inr ⟨_, sr, rfl, rfl⟩
  | sti sr off => cases h; exact .inr ⟨_, sr, rfl, rfl⟩
  | str sr b off => cases h; exact .inr ⟨_, sr, rfl, rfl⟩
  | br n z p off =>
    cases h
    exact .inl (by simp only [State.complete_mem]; split <;> rfl)
  | trap ig v =>
    simp only [exec, execTrap, execTrapWith] at h
    split at h <;> cases h <;> exact .inl rfl
  | _ => cases h; exact .inl rfl

/-- Every instruction keeps the canonical form of memory. -/
theorem exec_mem_wf {i : Instr} {s t : State} (hm : Memory.wf s.mem = true) (h : exec i s = .next t) :
    Memory.wf t.mem = true := by
  rcases exec_mem h with e | ⟨a, r, -, e⟩ <;> rw [e]
  · exact hm
  · exact Memory.wf_write hm _ _

end Sys2Proof.Machine
end

