-- ==== Sys2Proof/Laws/PerInstr.lean ====
section
/-! SUPPORT. For every instruction as syntax: its encoding has the fixed bits of its row of the opcode table (R54, R81 to R101). -/

namespace Sys2Proof.Laws.RowBits

/-- The word of the instruction has the fixed bits of its row. -/
def Statement (i : Instr) : Prop := i.row.selects (encode i) = true

/-- A row selects a word as soon as the masked word agrees with the match in each of its 16 bits. -/
theorem selects_of_bits {r : Row} {w : Word} (h : ∀ k, (hk : k < 16) → (w[k] && r.mask[k]) = r.matchBits[k]) :
    r.selects w = true := by
  have : w &&& r.mask = r.matchBits := by
    ext k hk
    simpa using h k hk
  simp [Row.selects, this]

theorem addReg (dr sr1 : RegIdx) (ignored : BitVec 2) (sr2 : RegIdx) : Statement (.addReg dr sr1 ignored sr2) := by
  refine selects_of_bits fun k hk => ?_
  simp only [encode, Instr.row, BitVec.getElem_setWidth, ↓BitVec.getLsbD_append]
  interval_cases k <;> simp

theorem addImm (dr sr1 : RegIdx) (imm5 : BitVec 5) : Statement (.addImm dr sr1 imm5) := by
  refine selects_of_bits fun k hk => ?_
  simp only [encode, Instr.row, BitVec.getElem_setWidth, ↓BitVec.getLsbD_append]
  interval_cases k <;> simp

theorem andReg (dr sr1 : RegIdx) (ignored : BitVec 2) (sr2 : RegIdx) : Statement (.andReg dr sr1 ignored sr2) := by
  refine selects_of_bits fun k hk => ?_
  simp only [encode, Instr.row, BitVec.getElem_setWidth, ↓BitVec.getLsbD_append]
  interval_cases k <;> simp

theorem andImm (dr sr1 : RegIdx) (imm5 : BitVec 5) : Statement (.andImm dr sr1 imm5) := by
  refine selects_of_bits fun k hk => ?_
  simp only [encode, Instr.row, BitVec.getElem_setWidth, ↓BitVec.getLsbD_append]
  interval_cases k <;> simp

theorem not (dr sr1 : RegIdx) (ignored : BitVec 6) : Statement (.not dr sr1 ignored) := by
  refine selects_of_bits fun k hk => ?_
  simp only [encode, Instr.row, BitVec.getElem_setWidth, ↓BitVec.getLsbD_append]
  interval_cases k <;> simp

theorem br (n z p : Bool) (pcOffset9 : BitVec 9) : Statement (.br n z p pcOffset9) := by
  refine selects_of_bits fun k hk => ?_
  simp only [encode, Instr.row, BitVec.getElem_setWidth, ↓BitVec.getLsbD_append]
  interval_cases k <;> simp

theorem ld (dr : RegIdx) (pcOffset9 : BitVec 9) : Statement (.ld dr pcOffset9) := by
  refine selects_of_bits fun k hk => ?_
  simp only [encode, Instr.row, BitVec.getElem_setWidth, ↓BitVec.getLsbD_append]
  interval_cases k <;> simp

theorem ldi (dr : RegIdx) (pcOffset9 : BitVec 9) : Statement (.ldi dr pcOffset9) := by
  refine selects_of_bits fun k hk => ?_
  simp only [encode, Instr.row, BitVec.getElem_setWidth, ↓BitVec.getLsbD_append]
  interval_cases k <;> simp

theorem ldr (dr baseR : RegIdx) (offset6 : BitVec 6) : Statement (.ldr dr baseR offset6) := by
  refine selects_of_bits fun k hk => ?_
  simp only [encode, Instr.row, BitVec.getElem_setWidth, ↓BitVec.getLsbD_append]
  interval_cases k <;> simp

theorem lea (dr : RegIdx) (pcOffset9 : BitVec 9) : Statement (.lea dr pcOffset9) := by
  refine selects_of_bits fun k hk => ?_
  simp only [encode, Instr.row, BitVec.getElem_setWidth, ↓BitVec.getLsbD_append]
  interval_cases k <;> simp

theorem st (sr : RegIdx) (pcOffset9 : BitVec 9) : Statement (.st sr pcOffset9) := by
  refine selects_of_bits fun k hk => ?_
  simp only [encode, Instr.row, BitVec.getElem_setWidth, ↓BitVec.getLsbD_append]
  interval_cases k <;> simp

theorem sti (sr : RegIdx) (pcOffset9 : BitVec 9) : Statement (.sti sr pcOffset9) := by
  refine selects_of_bits fun k hk => ?_
  simp only [encode, Instr.row, BitVec.getElem_setWidth, ↓BitVec.getLsbD_append]
  interval_cases k <;> simp

theorem str (sr baseR : RegIdx) (offset6 : BitVec 6) : Statement (.str sr baseR offset6) := by
  refine selects_of_bits fun k hk => ?_
  simp only [encode, Instr.row, BitVec.getElem_setWidth, ↓BitVec.getLsbD_append]
  interval_cases k <;> simp

theorem trap (ignored : BitVec 4) (trapvect8 : BitVec 8) : Statement (.trap ignored trapvect8) := by
  refine selects_of_bits fun k hk => ?_
  simp only [encode, Instr.row, BitVec.getElem_setWidth, ↓BitVec.getLsbD_append]
  interval_cases k <;> simp

theorem invalid0100 (ignored : BitVec 12) : Statement (.invalid0100 ignored) := by
  refine selects_of_bits fun k hk => ?_
  simp only [encode, Instr.row, BitVec.getElem_setWidth, ↓BitVec.getLsbD_append]
  interval_cases k <;> simp

theorem invalid1000 (ignored : BitVec 12) : Statement (.invalid1000 ignored) := by
  refine selects_of_bits fun k hk => ?_
  simp only [encode, Instr.row, BitVec.getElem_setWidth, ↓BitVec.getLsbD_append]
  interval_cases k <;> simp

theorem invalid1100 (ignored : BitVec 12) : Statement (.invalid1100 ignored) := by
  refine selects_of_bits fun k hk => ?_
  simp only [encode, Instr.row, BitVec.getElem_setWidth, ↓BitVec.getLsbD_append]
  interval_cases k <;> simp

theorem invalid1101 (ignored : BitVec 12) : Statement (.invalid1101 ignored) := by
  refine selects_of_bits fun k hk => ?_
  simp only [encode, Instr.row, BitVec.getElem_setWidth, ↓BitVec.getLsbD_append]
  interval_cases k <;> simp

end Sys2Proof.Laws.RowBits
end

