-- ==== Sys2Proof/Tests/Slice0.lean ====
section
/-! SUPPORT. The tests. Expected values come from the worked examples of the rules and the vectors of 95_test_vectors.md, whose
ids stand in the docstrings. Then, for every statement with hypotheses, a witness that meets them together. -/

namespace Sys2Proof.Tests

open Sys2Proof.Machine

/-- The outcome is a next state with the given property. -/
def after (r : Result) (p : State → Bool) : Bool :=
  match r with
  | .next t => p t
  | .fault _ => false
  | .refused _ => false

/-- Such an outcome is a next state. -/
theorem next_of_after {r : Result} {p : State → Bool} (h : after r p = true) : ∃ t, r = .next t := by
  cases r with
  | next t => exact ⟨t, rfl⟩
  | fault f => exact absurd h (by simp [after])
  | refused f => exact absurd h (by simp [after])

/-- A reset block with the given PC, flag, registers and memory words, as the vectors give their start states. -/
def start (pc : Word) (cc : CondFlag) (regs : List (RegIdx × Word)) (mem : List (Addr × Word)) : State :=
  mem.foldl (fun s c => s.store c.1 c.2) (regs.foldl (fun s r => s.setReg r.1 r.2) { State.reset with pc := pc, cc := cc })

/-- A reset block about to run one word at 0x3000. -/
def one (w : Word) : State := start 0x3000#16 .zero [] [(0x3000#16, w)]

/-- A block in S_EXEC with the word fetched from 0x3000. -/
def atExec (w : Word) : State := (one w).fetch

/-- A block in S_MEM2 with the word fetched from 0x3000 and the pointer read. -/
def atMem2 (w : Word) : State := (atExec w).clock Config.standard .run

/-- Inputs with rst = 1. -/
def inReset : Inputs := { Inputs.run with rst := true }

/-- Inputs with ce = 0. -/
def held : Inputs := { Inputs.run with ce := false }

/-- A word of each row of the opcode table, in its order. -/
def wordPerRow : List Word :=
  [0x1642#16, 0x1025#16, 0x5401#16, 0x56FF#16, 0x923F#16, 0x0402#16, 0x2207#16, 0xA001#16, 0x64FF#16] ++
  [0xE1FF#16, 0x3401#16, 0xB605#16, 0x7702#16, 0xF025#16, 0x4802#16, 0x8000#16, 0xC1C0#16, 0xD000#16]

/-! ## What is well formed -/

/-- 0x165A: bits 4:3 of ADD are 11 (V-ADD-6). -/
theorem test_standardBits_refuses_add : (Instr.addReg 3 1 0b11 2).standardBits = false := by decide
/-- 0x5419: bits 4:3 of AND are 11 (V-AND-4). -/
theorem test_standardBits_refuses_and : (Instr.andReg 2 0 0b11 1).standardBits = false := by decide
/-- 0x9A2A: bits 5:0 of NOT are 101010 (V-NOT-4). -/
theorem test_standardBits_refuses_not : (Instr.not 5 0 0b101010).standardBits = false := by decide
/-- 0xF125: bits 11:8 of TRAP are 0001 (V-TRAP-2). -/
theorem test_standardBits_refuses_trap : (Instr.trap 1 0x25).standardBits = false := by decide
/-- The worked examples of the rules are standard words. -/
theorem test_standardBits_accepts : wordPerRow.all (fun w => (decode w).standardBits) = true := by decide
/-- An image without an origin, and one with half a word (R122). -/
theorem test_image_refused :
    imageWellFormed [] = false ∧ imageWellFormed [0x30#8, 0x00#8, 0x10#8] = false := by decide
/-- The image of V-E2E. -/
theorem test_image_accepted : imageWellFormed [0x30#8, 0x00#8, 0x10#8, 0x25#8, 0xF0#8, 0x25#8] = true := by decide

/-! ## Decoding: words written bit by bit from the layouts of R54 -/

theorem test_decode_addReg : decode (0b0001#4 ++ 0b011#3 ++ 0b001#3 ++ 0b0#1 ++ 0b10#2 ++ 0b010#3) = .addReg 3 1 0b10 2 := by decide
theorem test_decode_addImm : decode (0b0001#4 ++ 0b000#3 ++ 0b110#3 ++ 0b1#1 ++ 0b10101#5) = .addImm 0 6 0b10101 := by decide
theorem test_decode_andReg : decode (0b0101#4 ++ 0b010#3 ++ 0b100#3 ++ 0b0#1 ++ 0b01#2 ++ 0b001#3) = .andReg 2 4 0b01 1 := by decide
theorem test_decode_andImm : decode (0b0101#4 ++ 0b011#3 ++ 0b101#3 ++ 0b1#1 ++ 0b11110#5) = .andImm 3 5 0b11110 := by decide
theorem test_decode_not : decode (0b1001#4 ++ 0b101#3 ++ 0b010#3 ++ 0b101010#6) = .not 5 2 0b101010 := by decide
theorem test_decode_br : decode (0b0000#4 ++ 0b1#1 ++ 0b0#1 ++ 0b1#1 ++ 0b100000001#9) = .br true false true 0x101 := by decide
theorem test_decode_ld : decode (0b0010#4 ++ 0b001#3 ++ 0b000000111#9) = .ld 1 7 := by decide
theorem test_decode_ldi : decode (0b1010#4 ++ 0b110#3 ++ 0b100000000#9) = .ldi 6 0x100 := by decide
theorem test_decode_ldr : decode (0b0110#4 ++ 0b010#3 ++ 0b011#3 ++ 0b100001#6) = .ldr 2 3 0b100001 := by decide
theorem test_decode_lea : decode (0b1110#4 ++ 0b100#3 ++ 0b111111110#9) = .lea 4 0x1FE := by decide
theorem test_decode_st : decode (0b0011#4 ++ 0b010#3 ++ 0b000000001#9) = .st 2 1 := by decide
theorem test_decode_sti : decode (0b1011#4 ++ 0b011#3 ++ 0b010000101#9) = .sti 3 0x85 := by decide
theorem test_decode_str : decode (0b0111#4 ++ 0b011#3 ++ 0b100#3 ++ 0b000010#6) = .str 3 4 2 := by decide
theorem test_decode_trap : decode (0b1111#4 ++ 0b0001#4 ++ 0b10100101#8) = .trap 1 0xA5 := by decide
theorem test_decode_invalid0100 : decode (0b0100#4 ++ 0b100000000010#12) = .invalid0100 0x802 := by decide
theorem test_decode_invalid1000 : decode (0b1000#4 ++ 0b000000000000#12) = .invalid1000 0 := by decide
theorem test_decode_invalid1100 : decode (0b1100#4 ++ 0b000111000000#12) = .invalid1100 0x1C0 := by decide
theorem test_decode_invalid1101 : decode (0b1101#4 ++ 0b111111111111#12) = .invalid1101 0xFFF := by decide

/-- Each example word has the fixed bits of exactly its row, and the rows stand in the table's order. -/
theorem test_decode_rows : wordPerRow.map (fun w => (decode w).row) = opcodeTable := by decide
/-- The host's words: one word is fetched and decoded. -/
theorem test_decodeTableWord : decodeTableWord 16 0x1642 = some (.addReg 3 1 0 2) ∧ decodeTableWord 32 0x1642 = none := by decide

/-! ## Operands (L1-1) -/

theorem test_sext_5 : sext 0b11111#5 = 0xFFFF#16 ∧ sext 0b10000#5 = 0xFFF0#16 ∧ sext 0b01111#5 = 0x000F#16 := by decide
theorem test_sext_6_9 : sext 0b100000#6 = 0xFFE0#16 ∧ sext 0x100#9 = 0xFF00#16 ∧ sext 0x0FF#9 = 0x00FF#16 := by decide
theorem test_sext_ends : sext 1#1 = 0xFFFF#16 ∧ sext 0x8000#16 = 0x8000#16 ∧ sext 0x4000#15 = 0xC000#16 := by decide

theorem test_zext : zext 0xFF#8 = 0x00FF#16 := by decide

/-! ## One step of each instruction -/

/-- V-ADD-2. -/
theorem test_add_overflow :
    after (step (start 0x3000#16 .zero [(1, 0x7FFF#16), (2, 0x0001#16)] [(0x3000#16, 0x1642#16)]))
      (fun t => t.reg 3 == 0x8000#16 && t.pc == 0x3001#16 && t.cc == .negative) = true := by decide
/-- V-ADD-5. -/
theorem test_add_reads_before_write :
    after (step (start 0x3000#16 .zero [(1, 0x4000#16)] [(0x3000#16, 0x1241#16)]))
      (fun t => t.reg 1 == 0x8000#16 && t.cc == .negative) = true := by decide
/-- V-ADD-9. -/
theorem test_addImm_minus_16 :
    after (step (start 0x3000#16 .positive [(1, 0x0010#16)] [(0x3000#16, 0x1270#16)]))
      (fun t => t.reg 1 == 0x0000#16 && t.cc == .zero) = true := by decide
/-- V-ADD-10. -/
theorem test_addImm_plus_15 :
    after (step (start 0x3000#16 .zero [(1, 0x7FFF#16)] [(0x3000#16, 0x126F#16)]))
      (fun t => t.reg 1 == 0x800E#16 && t.cc == .negative) = true := by decide
/-- V-AND-4. -/
theorem test_and_ignored_bits :
    after (step (start 0x3000#16 .zero [(0, 0x00FF#16), (1, 0x0F0F#16)] [(0x3000#16, 0x5419#16)]))
      (fun t => t.reg 2 == 0x000F#16 && t.cc == .positive) = true := by decide
/-- V-AND-7. -/
theorem test_andImm_minus_16 :
    after (step (start 0x3000#16 .zero [(0, 0x8001#16)] [(0x3000#16, 0x5030#16)]))
      (fun t => t.reg 0 == 0x8000#16 && t.cc == .negative) = true := by decide
/-- V-NOT-4. -/
theorem test_not_ignored_bits :
    after (step (start 0x3000#16 .zero [(0, 0x00FF#16)] [(0x3000#16, 0x9A2A#16)]))
      (fun t => t.reg 5 == 0xFF00#16 && t.reg 0 == 0x00FF#16 && t.cc == .negative) = true := by decide
/-- V-NOT-3. -/
theorem test_not_sign_bit :
    after (step (start 0x3000#16 .zero [(0, 0x8000#16)] [(0x3000#16, 0x923F#16)]))
      (fun t => t.reg 1 == 0x7FFF#16 && t.cc == .positive) = true := by decide
/-- V-BR-8. -/
theorem test_br_wraps_down :
    after (step (start 0x0000#16 .zero [] [(0x0000#16, 0x0F00#16)])) (fun t => t.pc == 0xFF01#16 && t.cc == .zero) = true := by decide
/-- V-BR-7. -/
theorem test_br_not_taken :
    after (step (start 0x3000#16 .positive [] [(0x3000#16, 0x0C05#16)]))
      (fun t => t.pc == 0x3001#16 && t.cc == .positive) = true := by decide
/-- V-LD-5. -/
theorem test_ld_wraps :
    after (step (start 0xFFFF#16 .zero [] [(0xFFFF#16, 0x2000#16), (0x0000#16, 0x0042#16)]))
      (fun t => t.reg 0 == 0x0042#16 && t.pc == 0x0000#16 && t.cc == .positive) = true := by decide
/-- V-LD-4. -/
theorem test_ld_own_word :
    after (step (one 0x21FF#16)) (fun t => t.reg 0 == 0x21FF#16 && t.cc == .positive) = true := by decide
/-- V-LDI-1, the scenario of L1-5. -/
theorem test_ldi_reads_twice :
    after (step (start 0x3000#16 .zero [] [(0x3000#16, 0xA001#16), (0x3002#16, 0x4000#16), (0x4000#16, 0x1234#16)]))
      (fun t => t.reg 0 == 0x1234#16 && t.cc == .positive && t.pc == 0x3001#16) = true := by decide
/-- V-LDI-4. -/
theorem test_ldi_pointer_to_itself :
    after (step (start 0x3000#16 .zero [] [(0x3000#16, 0xA001#16), (0x3002#16, 0x3002#16)]))
      (fun t => t.reg 0 == 0x3002#16 && t.cc == .positive) = true := by decide
/-- V-LDR-3. -/
theorem test_ldr_wraps_down :
    after (step (start 0x3000#16 .zero [(1, 0x0010#16)] [(0x3000#16, 0x6060#16), (0xFFF0#16, 0x0001#16)]))
      (fun t => t.reg 0 == 0x0001#16 && t.cc == .positive) = true := by decide
/-- V-LDR-1. -/
theorem test_ldr_minus_one :
    after (step (start 0x3000#16 .zero [(3, 0x4001#16)] [(0x3000#16, 0x64FF#16), (0x4000#16, 0x8001#16)]))
      (fun t => t.reg 2 == 0x8001#16 && t.cc == .negative) = true := by decide
/-- V-LEA-2. -/
theorem test_lea_sets_negative :
    after (step (start 0x7FFF#16 .zero [] [(0x7FFF#16, 0xE000#16)]))
      (fun t => t.reg 0 == 0x8000#16 && t.pc == 0x8000#16 && t.cc == .negative) = true := by decide
/-- V-LEA-5. -/
theorem test_lea_reads_no_memory :
    after (step (start 0x3000#16 .zero [] [(0x3000#16, 0xE803#16), (0x3004#16, 0x1234#16)]))
      (fun t => t.reg 4 == 0x3004#16 && t.cc == .positive) = true := by decide
/-- V-ST-2. -/
theorem test_st_wraps :
    after (step (start 0xFFFF#16 .positive [(0, 0xBEEF#16)] [(0xFFFF#16, 0x3000#16)]))
      (fun t => t.load 0x0000#16 == 0xBEEF#16 && t.load 0xFFFF#16 == 0x3000#16 && t.cc == .positive) = true := by decide
/-- V-ST-4: the store of 0x0000 removes the word from the listed memory. -/
theorem test_st_own_word : after (step (one 0x31FF#16)) (fun t => t.mem == [] && t.ir == 0x31FF#16) = true := by decide
/-- V-STI-2. -/
theorem test_sti_pointer_is_own_word :
    after (step (start 0x3000#16 .negative [(0, 0x0077#16)] [(0x3000#16, 0xB1FF#16)]))
      (fun t => t.load 0xB1FF#16 == 0x0077#16 && t.load 0x3000#16 == 0xB1FF#16 && t.cc == .negative) = true := by decide
/-- V-STI-3. -/
theorem test_sti_overwrites_pointer :
    after (step (start 0x3000#16 .zero [(0, 0x5555#16)] [(0x3000#16, 0xB001#16), (0x3002#16, 0x3002#16)]))
      (fun t => t.load 0x3002#16 == 0x5555#16 && t.ea == 0x3002#16) = true := by decide
/-- V-STR-2. -/
theorem test_str_wraps :
    after (step (start 0x3000#16 .positive [(0, 0x00AA#16)] [(0x3000#16, 0x707F#16)]))
      (fun t => t.load 0xFFFF#16 == 0x00AA#16 && t.cc == .positive) = true := by decide
/-- V-STR-3. -/
theorem test_str_base_is_source :
    after (step (start 0x3000#16 .zero [(1, 0x4000#16)] [(0x3000#16, 0x7240#16)]))
      (fun t => t.load 0x4000#16 == 0x4000#16 && t.reg 1 == 0x4000#16) = true := by decide
/-- V-TRAP-2. -/
theorem test_trap_halts :
    after (step (one 0xF125#16))
      (fun t => t.fsm == .halt && !t.running && t.pc == 0x3001#16 && t.xcause == .none) = true := by decide
/-- V-TRAP-3. -/
theorem test_trap_faults :
    after (step (one 0xF021#16))
      (fun t => t.fsm == .fault && t.running && t.xcause.code == 0b10#2 && t.xinfo == 0xF021#16 && !t.illop) = true := by decide
/-- V-TRAP-6. -/
theorem test_trap_other_halt_vector :
    after (stepWith { pcReset := 0x3000#16, haltVector := 0x30#8 } (one 0xF025#16))
      (fun t => t.fsm == .fault && t.xcause == .unimplementedTrap && t.xinfo == 0xF025#16) = true := by decide
/-- V-INV-1. -/
theorem test_invalid_0100 :
    after (step (one 0x4802#16))
      (fun t => t.pc == 0x3001#16 && t.illop && t.xcause.code == 0b01#2 && t.xinfo == 0x4802#16 && t.fsm == .fetch) = true := by decide
/-- V-INV-2. -/
theorem test_invalid_1000 :
    after (step (one 0x8000#16)) (fun t => t.pc == 0x3001#16 && t.illop && t.xinfo == 0x8000#16) = true := by decide
/-- V-INV-3. -/
theorem test_invalid_1100 :
    after (step (start 0x3000#16 .zero [(7, 0x4000#16)] [(0x3000#16, 0xC1C0#16)]))
      (fun t => t.pc == 0x3001#16 && t.reg 7 == 0x4000#16 && t.xinfo == 0xC1C0#16) = true := by decide
/-- V-INV-5. -/
theorem test_invalid_1101 :
    after (step (start 0x3000#16 .negative [(3, 0x9999#16)] [(0x3000#16, 0xDFFF#16)]))
      (fun t => t.reg 3 == 0x9999#16 && t.cc == .negative && t.xinfo == 0xDFFF#16 && t.running) = true := by decide

/-! ## The clocked block and the host -/

/-- V-E2E: the image, and the words and PC the loader leaves. -/
theorem test_boot :
    State.boot State.reset Config.standard .refuse [0x30#8, 0x00#8, 0x10#8, 0x25#8, 0xF0#8, 0x25#8] =
      some { State.reset with mem := [(0x3000, 0x1025#16), (0x3001, 0xF025#16)] } := by decide
/-- L1-8: the latest write wins, also the write of 0x0000. -/
theorem test_memory_round_trip :
    Memory.read (Memory.write [] 0xFFFF#16 0x8001#16) 0xFFFF#16 = 0x8001#16 ∧
    Memory.write (Memory.write [] 0x3000#16 0x1234#16) 0x3000#16 0x0000#16 = [] := by decide
/-- L3-2, cycle 2 of LDI. -/
theorem test_clock_ldi_pointer :
    let s := (start 0x3000#16 .zero [] [(0x3000#16, 0xA001#16), (0x3002#16, 0x4000#16)]).fetch
    s.request Config.standard = .read 0x3002#16 ∧ (s.clock Config.standard .run).ea = 0x4000#16 ∧
      (s.clock Config.standard .run).fsm.code = 2#3 := by decide
/-- L3-3, cycle 3 of STI. -/
theorem test_clock_sti_store :
    let s := { start 0x3004#16 .zero [(3, 0x0015#16)] [] with ir := 0xB605#16, ea := 0x300B#16, fsm := .mem2 }
    s.request Config.standard = .write 0x300B#16 0x0015#16 ∧ s.instrDone .run = true := by decide
/-- L3-4, cycle 2 of ST. -/
theorem test_clock_st_store :
    let s := (start 0x3000#16 .zero [(0, 0xF025#16)] [(0x3000#16, 0x3000#16)]).fetch
    s.request Config.standard = .write 0x3001#16 0xF025#16 ∧ (s.clock Config.standard .run).load 0x3001#16 = 0xF025#16 := by decide
/-- L3-6, cycle 2 of an invalid opcode. -/
theorem test_clock_invalid :
    ((atExec 0xD000#16).outputs Config.standard .run).illopEvt = true ∧
    ((atExec 0xD000#16).outputs Config.standard .run).instrDone = true ∧
    ((atExec 0xD000#16).clock Config.standard .run).xinfo = 0xD000#16 := by decide
/-- V-RST-2 and V-RST-6: reset with a host load and ce = 0. -/
theorem test_reset_load :
    (atExec 0x1025#16).clock Config.standard { inReset with ce := false, pcLoadEn := true, pcLoadVal := 0x4000#16 } =
      { State.reset with pc := 0x4000#16, mem := [(0x3000, 0x1025#16)] } := by decide
/-- The host's word runs as the first instruction after reset. -/
theorem test_withFetchWord :
    after (step (State.reset.withFetchWord 16 0x1025)) (fun t => t.reg 0 == 0x0005#16 && t.pc == 0x3001#16) = true := by decide

/-! ## Witnesses: the hypotheses of each statement can be met together -/

/-- Every clause of the layout statement, the register and immediate forms of ADD and AND included. -/
theorem wit_fields :
    wordPerRow.map (fun w => (w.extractLsb' 12 4).toNat) = [1, 1, 5, 5, 9, 0, 2, 10, 6, 14, 3, 11, 7, 15, 4, 8, 12, 13] ∧
    (wordPerRow.take 4).map (fun w => w.getLsbD 5) = [false, true, false, true] := by decide
/-- The masked words of R81 to R95. -/
theorem wit_matches :
    0x1642#16 &&& 0xF020#16 = 0x1000#16 ∧ 0x1025#16 &&& 0xF020#16 = 0x1020#16 ∧ 0x5401#16 &&& 0xF020#16 = 0x5000#16 ∧
    0x56FF#16 &&& 0xF020#16 = 0x5020#16 ∧ 0x923F#16 &&& 0xF000#16 = 0x9000#16 ∧ 0x0402#16 &&& 0xF000#16 = 0x0000#16 ∧
    0x2207#16 &&& 0xF000#16 = 0x2000#16 ∧ 0xA001#16 &&& 0xF000#16 = 0xA000#16 ∧ 0x64FF#16 &&& 0xF000#16 = 0x6000#16 ∧
    0xE1FF#16 &&& 0xF000#16 = 0xE000#16 ∧ 0x3401#16 &&& 0xF000#16 = 0x3000#16 ∧ 0xB605#16 &&& 0xF000#16 = 0xB000#16 ∧
    0x7702#16 &&& 0xF000#16 = 0x7000#16 ∧ 0xFF25#16 &&& 0xF0FF#16 = 0xF025#16 ∧ 0xF021#16 &&& 0xF000#16 = 0xF000#16 := by decide
/-- The pseudo-instructions that name unimplemented services. -/
theorem wit_pseudo : Pseudo.putsp ∈ [Pseudo.getc, .out, .puts, .input, .putsp] := by decide
/-- Widths and bit places at the ends of their ranges. -/
theorem wit_sext : 1 ≤ 1 ∧ 1 ≤ 16 ∧ 0 < 1 ∧ 1 ≤ 15 ∧ 15 < 16 ∧ (16 : Nat) ≤ 16 := by decide
/-- The three ranges of setcc at both ends. -/
theorem wit_setcc :
    0x0000#16 = 0x0000#16 ∧ 1 ≤ (0x0001#16).toNat ∧ (0x7FFF#16).toNat ≤ 0x7FFF ∧ 0x8000 ≤ (0x8000#16).toNat ∧
    0x8000 ≤ (0xFFFF#16).toNat := by decide
/-- BR taken on each flag, and not taken. -/
theorem wit_br :
    ((true = true ∧ (start 0#16 .negative [] []).cc = .negative) ∧ (true = true ∧ (start 0#16 .zero [] []).cc = .zero) ∧
      (true = true ∧ (start 0#16 .positive [] []).cc = .positive)) ∧
    ¬((false = true ∧ State.reset.cc = .negative) ∨ (false = true ∧ State.reset.cc = .zero) ∨
      (true = true ∧ State.reset.cc = .positive)) := by decide
/-- LDI and STI at a pointer cell that holds 0x4000. -/
theorem wit_indirect :
    let s := start 0x3001#16 .zero [] [(0x3002#16, 0x4000#16), (0x4000#16, 0x1234#16)]
    0x4000#16 = Memory.read s.mem (s.pc + sext 1#9) ∧ 0x1234#16 = Memory.read s.mem 0x4000#16 := by decide
/-- LEA in S_EXEC. -/
theorem wit_lea : (atExec 0xE1FF#16).fsm = .exec ∧ decode (atExec 0xE1FF#16).ir = .lea 0 0x1FF := by decide
/-- TRAP with the halt vector, in S_EXEC, and a halted block. -/
theorem wit_trapHalts :
    execWith Config.standard (.trap 0 0x25) State.reset = .next State.reset.halt ∧ (atExec 0xF025#16).fsm = .exec ∧
    (atExec 0xF025#16).ir.extractLsb' 12 4 = 0b1111#4 ∧ State.reset.halt.running = false := ⟨rfl, by decide, by decide, rfl⟩
/-- TRAP vectors around the halt vector and at the ends, and a faulted block without reset. -/
theorem wit_trapFaults :
    0x24#8 ≠ Config.standard.haltVector ∧ 0x26#8 ≠ 0x25#8 ∧ 0x00#8 ≠ 0x25#8 ∧ 0xFF#8 ≠ 0x25#8 ∧
    (State.reset.raise .unimplementedTrap).fsm = .fault ∧ ∀ i ∈ [Inputs.run, held], i.rst = false := by decide
/-- The ends of the four ranges of invalid words, and S_EXEC with a word of each. -/
theorem wit_invalid :
    (0x4000#16).toNat = 0x4000 ∧ (0x4FFF#16).toNat = 0x4FFF ∧ (0x8000#16).toNat = 0x8000 ∧ (0x8FFF#16).toNat = 0x8FFF ∧
    (0xC000#16).toNat = 0xC000 ∧ (0xCFFF#16).toNat = 0xCFFF ∧ (0xD000#16).toNat = 0xD000 ∧ (0xDFFF#16).toNat = 0xDFFF ∧
    Instr.invalid1101 0 ∈ [Instr.invalid0100 0, .invalid1000 0, .invalid1100 0, .invalid1101 0] ∧
    [0x4802#16, 0x8000#16, 0xC1C0#16, 0xDFFF#16].all (fun w => (atExec w).fsm == .exec && invalidWord (atExec w).ir) = true := by
  decide
/-- Instructions with a destination register, LDI among them. -/
theorem wit_registerWriters :
    (Instr.ldi 0 1).dest = some 0 ∧ (∃ t, exec (.ldi 0 1) State.reset = .next t) ∧ (1 : RegIdx) ≠ 0 ∧
    (Instr.addImm 7 0 5).dest = some 7 ∧ (∃ t, exec (.addImm 7 0 5) State.reset = .next t) :=
  ⟨rfl, ⟨_, rfl⟩, by decide, rfl, ⟨_, rfl⟩⟩
/-- Each of the three stores. -/
theorem wit_stores :
    Memory.wf State.reset.mem = true ∧
    (State.reset.storeAddress (.st 2 1) = some 0x3001#16 ∧ (Instr.st 2 1).reads.head? = some 2 ∧
      ∃ t, exec (.st 2 1) State.reset = .next t) ∧
    (State.reset.storeAddress (.sti 3 5) = some 0x0000#16 ∧ (Instr.sti 3 5).reads.head? = some 3 ∧
      ∃ t, exec (.sti 3 5) State.reset = .next t) ∧
    (State.reset.storeAddress (.str 3 4 0x3F) = some 0xFFFF#16 ∧ (Instr.str 3 4 0x3F).reads.head? = some 3 ∧
      ∃ t, exec (.str 3 4 0x3F) State.reset = .next t) :=
  ⟨rfl, ⟨by decide, rfl, _, rfl⟩, ⟨by decide, rfl, _, rfl⟩, ⟨by decide, rfl, _, rfl⟩⟩
/-- BR, both ends of TRAP, and an invalid opcode. -/
theorem wit_control :
    (Instr.br true true true 2).dest = none ∧ State.reset.storeAddress (.br true true true 2) = none ∧
    (∃ t, exec (.br true true true 2) State.reset = .next t) ∧ (∃ t, exec (.trap 0 0x25) State.reset = .next t) ∧
    (∃ t, exec (.trap 0 0x21) State.reset = .next t) ∧ (∃ t, exec (.invalid1101 0) State.reset = .next t) ∧
    (Instr.trap 0 0x25).dest = none ∧ State.reset.storeAddress (.trap 0 0x25) = none ∧ (Instr.invalid1101 0).dest = none ∧
    State.reset.storeAddress (.invalid1101 0) = none ∧ (Instr.trap 0 0x25).isInvalid = false ∧
    (Instr.invalid1101 0).isInvalid = true :=
  ⟨rfl, rfl, ⟨_, rfl⟩, ⟨_, rfl⟩, ⟨_, rfl⟩, ⟨_, rfl⟩, rfl, rfl, rfl, rfl, rfl, rfl⟩
/-- Two register files that differ in R7 only, for an instruction that reads R1 and R2. -/
theorem wit_registersRead :
    let other := (State.reset.setReg 7 0xBEEF#16).regs
    (∀ r ∈ (Instr.addReg 3 1 0 2).reads, State.reg { State.reset with regs := other } r = State.reset.reg r) ∧
    (∃ t, exec (.addReg 3 1 0 2) State.reset = .next t) ∧
    (∃ t, exec (.addReg 3 1 0 2) { State.reset with regs := other } = .next t) ∧
    (Instr.addReg 3 1 0 2).dest = some 3 ∧ (Instr.addReg 3 1 0 2).dest ≠ some 7 :=
  ⟨by decide, ⟨_, rfl⟩, ⟨_, rfl⟩, rfl, by decide⟩
/-- An instruction that is not BR, from two values of CC. -/
theorem wit_conditionFlag :
    (∀ (n z p : Bool) (off : BitVec 9), Instr.addImm 0 0 5 ≠ .br n z p off) ∧
    (∃ t, exec (.addImm 0 0 5) State.reset = .next t) ∧ (∃ t, exec (.addImm 0 0 5) { State.reset with cc := .negative } = .next t) :=
  ⟨fun _ _ _ _ => by simp, ⟨_, rfl⟩, ⟨_, rfl⟩⟩
/-- A ready block about to run a word of each row, and it steps. -/
theorem wit_ready : wordPerRow.all (fun w => (one w).fsm == .fetch && (one w).running && (one w).load (one w).pc == w &&
    after (step (one w)) (fun _ => true)) = true := by decide
/-- `State.Ready` is what the last theorem shows of these blocks. -/
theorem wit_ready_prop : (one 0x1025#16).Ready ∧ (∃ t, step (one 0x1025#16) = .next t) ∧
    decode ((one 0x1025#16).load (one 0x1025#16).pc) = .addImm 0 0 5 := ⟨⟨rfl, rfl⟩, next_of_after (p := fun _ => true) (by decide), by decide⟩
/-- Blocks that are halted or faulted, inputs without reset, and an edge with reset. -/
theorem wit_stopped :
    State.reset.halt.running = false ∧ State.reset.halt.fsm = .halt ∧ (State.reset.raise .unimplementedTrap).fsm = .fault ∧
    (∀ i ∈ [Inputs.run, held], i.rst = false) ∧ inReset.rst = true := by decide
/-- RUNNING: a running block that executes the halt trap, one that executes another word, and edges that keep or set it. -/
theorem wit_running :
    (∃ t, step (one 0xF025#16) = .next t) ∧ haltWord Config.standard ((one 0xF025#16).load (one 0xF025#16).pc) = true ∧
    (∃ t, exec (.addImm 0 0 5) State.reset = .next t ∧ t.running = true) ∧
    ((one 0x1025#16).clock Config.standard .run).running = true ∧ (State.reset.halt.clock Config.standard inReset).running = true ∧
    faultWord Config.standard ((one 0xF021#16).load (one 0xF021#16).pc) = true :=
  ⟨next_of_after (p := fun _ => true) (by decide), by decide, ⟨_, rfl, rfl⟩, by decide, by decide, by decide⟩
/-- Ready blocks at an invalid word of each opcode, at trap vectors on both sides of the halt vector, and at neither. -/
theorem wit_conditions :
    [0x4000#16, 0x8000#16, 0xCFFF#16, 0xDFFF#16].all (fun w => (one w).fsm == .fetch && (one w).running &&
      invalidWord ((one w).load (one w).pc) && after (step (one w)) (fun _ => true)) = true ∧
    [0xF000#16, 0xF024#16, 0xF026#16, 0xFFFF#16].all (fun w => (one w).fsm == .fetch && (one w).running &&
      faultWord Config.standard ((one w).load (one w).pc) && after (step (one w)) (fun _ => true)) = true ∧
    [0x3FFF#16, 0xEFFF#16, 0xF025#16].all (fun w => !invalidWord ((one w).load (one w).pc) &&
      !faultWord Config.standard ((one w).load (one w).pc)) = true := by decide
/-- ST R0, #0 stores over the next word, which is the next word fetched (V-ST-3). -/
theorem wit_storeSeen :
    let s := start 0x3000#16 .zero [(0, 0xF025#16)] [(0x3000#16, 0x3000#16)]
    s.fsm = .fetch ∧ s.running = true ∧ Memory.wf s.mem = true ∧ decode (s.load s.pc) = .st 0 0 ∧
    s.fetch.storeAddress (.st 0 0) = some 0x3001#16 ∧ (Instr.st 0 0).reads.head? = some 0 ∧
    after (step s) (fun t => t.pc == 0x3001#16) = true := by decide
/-- Two ready blocks that differ in the report and the latches, and both step. -/
theorem wit_report :
    (one 0x1025#16).Ready ∧ (∃ t, step (one 0x1025#16) = .next t) ∧
    ∃ t, step { one 0x1025#16 with illop := true, xcause := .invalidOpcode, xinfo := 0xD000#16, ir := 0xD000#16, ea := 1#16 } =
      .next t :=
  ⟨⟨rfl, rfl⟩, next_of_after (p := fun _ => true) (by decide), next_of_after (p := fun _ => true) (by decide)⟩
/-- A memory in canonical form that is not empty, and one that is not in canonical form. -/
theorem wit_memory :
    Memory.wf [(0, 0xFFFF#16), (65535, 1#16)] = true ∧ Memory.wf [(65536, 1#16)] = false ∧ Memory.wf [(2, 1#16), (1, 1#16)] = false ∧
    Memory.wf [(0, 0x0000#16)] = false := by decide
/-- Equal reads: a memory and itself written again with a word it holds. -/
theorem wit_equalReads :
    let m := [(0x3000, 0x1025#16)]
    Memory.wf m = true ∧ Memory.wf (Memory.write m 0x3000#16 0x1025#16) = true ∧
    ∀ a : Addr, Memory.read m a = Memory.read (Memory.write m 0x3000#16 0x1025#16) a :=
  ⟨by decide, by decide, fun _ => rfl⟩
/-- Reset edges with and without ce and a host load, and the cycle after them; edges with ce = 0. -/
theorem wit_inputs :
    inReset.rst = true ∧ { inReset with ce := false }.rst = true ∧ { inReset with pcLoadEn := true }.pcLoadEn = true ∧
    inReset.pcLoadEn = false ∧ State.reset.mem = [] ∧ Inputs.run.rst = false ∧ Inputs.run.ce = true ∧ held.rst = false ∧
    held.ce = false := by decide
/-- An image that ends exactly at the top of memory, and one at the bottom. -/
theorem wit_loader :
    Memory.wf State.reset.mem = true ∧ (0xFFFF#16).toNat + [0xF025#16].length ≤ 65536 ∧ 0 < [0xF025#16].length ∧
    (0x0000#16).toNat + [0xF025#16].length ≤ 65536 ∧ (0xFFFE#16).toNat < (0xFFFF#16).toNat ∧
    (0x0000#16).toNat + [0xF025#16].length ≤ (0x0001#16).toNat := by decide
/-- S_FETCH and S_EXEC with a word of each row; S_EXEC is not S_FETCH. -/
theorem wit_cycles : wordPerRow.all (fun w => (one w).fsm == .fetch && (atExec w).fsm == .exec && (atExec w).ir == w &&
    (atExec w).running) = true := by decide
/-- S_MEM2 with LDI and with STI, each entered from S_EXEC. -/
theorem wit_mem2 :
    (atMem2 0xA001#16).fsm = .mem2 ∧ (atMem2 0xA001#16).ir.extractLsb' 12 4 = 0b1010#4 ∧ (atMem2 0xA001#16).running = true ∧
    (atMem2 0xB605#16).fsm = .mem2 ∧ (atMem2 0xB605#16).ir.extractLsb' 12 4 = 0b1011#4 ∧ (atMem2 0xB605#16).running = true ∧
    (atExec 0xA001#16).fsm ≠ .mem2 ∧ ((atExec 0xA001#16).clock Config.standard .run).fsm = .mem2 := by decide
/-- Cycles that write, that do neither, and that the host holds or resets. -/
theorem wit_port :
    ((atExec 0x3401#16).outputs Config.standard .run).memWe = true ∧ Memory.wf (atExec 0x3401#16).mem = true ∧
    (0x0000#16 : Addr) ≠ ((atExec 0x3401#16).outputs Config.standard .run).memAddr ∧
    ((atExec 0x1025#16).outputs Config.standard .run).memRe = false ∧
    ((atExec 0x1025#16).outputs Config.standard .run).memWe = false ∧ held.ce = false ∧ inReset.rst = true := by decide
/-- Cycle counts at both ends: the first cycle of any instruction, and the last of LDI. -/
theorem wit_refines : 0 < cyclesOf (decode 0x1025#16) ∧ 2 < cyclesOf (decode 0xA001#16) ∧ ¬ 2 < cyclesOf (decode 0x1025#16) := by decide

/-- Legal states in every FSM state: in S_FETCH after a report, in S_EXEC, S_MEM2, S_HALT and S_FAULT. -/
theorem wit_legal_fetch : State.Legal Config.standard
    { State.reset with illop := true, xcause := .invalidOpcode, xinfo := 0xD000#16, mem := [(0x3000, 0xD000#16)] } where
  memory := by decide
  halted := by decide
  faulted := by decide
  report := ⟨rfl, by decide⟩
  latches := trivial
theorem wit_legal_exec : State.Legal Config.standard (atExec 0xA001#16) where
  memory := by decide
  halted := by decide
  faulted := by decide
  report := ⟨rfl, rfl⟩
  latches := by show (atExec 0xA001#16).ir = _; decide
theorem wit_legal_mem2 : State.Legal Config.standard (atMem2 0xA001#16) where
  memory := by decide
  halted := by decide
  faulted := by decide
  report := ⟨rfl, rfl⟩
  latches := ⟨by decide, by decide, by decide⟩
theorem wit_legal_halt : State.Legal Config.standard (atExec 0xF025#16).halt where
  memory := by decide
  halted := by decide
  faulted := by decide
  report := ⟨rfl, rfl⟩
  latches := by show haltWord _ _ = true; decide
theorem wit_legal_fault : State.Legal Config.standard ((atExec 0xF021#16).raise .unimplementedTrap) where
  memory := by decide
  halted := by decide
  faulted := by decide
  report := ⟨by decide, rfl⟩
  latches := by show faultWord _ _ = true; decide
/-- A step from a legal state to another. -/
theorem wit_legal_step : ∃ t, step (atMem2 0xA001#16) = .next t :=
  next_of_after (p := fun _ => true) (by decide)
/-- ILLOP set: a step, and an edge that clears it. -/
theorem wit_illop :
    (∃ t, step { one 0x1025#16 with illop := true } = .next t) ∧
    (State.clock { one 0x1025#16 with illop := true } Config.standard inReset).illop = false :=
  ⟨next_of_after (p := fun _ => true) (by decide), rfl⟩

end Sys2Proof.Tests
end

section
/-! The sign extension of R8 bit by bit and as a signed number (R6, R55), at every width up to the word's. -/

namespace Sys2Proof.Machine

/-- R8's OR form, its condition read at bit N-1 of the value. -/
theorem sext_eq_ite_getLsbD {n : Nat} (v : BitVec n) :
    sext v = if v.getLsbD (n - 1) then v.setWidth 16 ||| (0xFFFF#16 <<< n) else v.setWidth 16 := by
  rw [sext, BitVec.msb_eq_getLsbD_last]

theorem sext_getLsbD_of_lt {n k : Nat} (v : BitVec n) (hn : n ≤ 16) (hk : k < n) :
    (sext v).getLsbD k = v.getLsbD k := by
  have hk16 : k < 16 := by omega
  rw [sext_eq_signExtend v hn, BitVec.getLsbD_signExtend]
  simp [hk, hk16]

theorem sext_getLsbD_of_ge {n k : Nat} (v : BitVec n) (hk : n ≤ k) (hk16 : k < 16) :
    (sext v).getLsbD k = v.getLsbD (n - 1) := by
  have hn : n ≤ 16 := by omega
  have hkn : ¬ k < n := by omega
  rw [sext_eq_signExtend v hn, BitVec.getLsbD_signExtend, BitVec.msb_eq_getLsbD_last]
  simp [hkn, hk16]

theorem sext_word (v : Word) : sext v = v := by
  rw [sext_eq_signExtend v le_rfl, BitVec.signExtend_eq]

theorem sext_toInt {n : Nat} (v : BitVec n) (hn : n ≤ 16) : (sext v).toInt = v.toInt := by
  rw [sext_eq_signExtend v hn, BitVec.toInt_signExtend_of_le hn]

/-- R55: an N-bit immediate reads, after extension, as the signed number of its bits, in the two's-complement range of R6. -/
theorem sext_toInt_and_range {n : Nat} (v : BitVec n) (hn : n ≤ 16) :
    (sext v).toInt = v.toInt ∧ -2 ^ (n - 1) ≤ (sext v).toInt ∧ (sext v).toInt ≤ 2 ^ (n - 1) - 1 := by
  rw [sext_toInt v hn]
  exact ⟨rfl, v.le_toInt, BitVec.toInt_le⟩

/-- Settles O8: the OR form by the definition, the bits through the library's sign extension. -/
theorem signExtensionReplicatesTheTopBit : Obligations.SignExtensionReplicatesTheTopBit := by
  refine ⟨fun n v _ hn => ⟨sext_eq_ite_getLsbD v, ?_, ?_⟩, sext_word⟩
  · exact fun k hk => sext_getLsbD_of_lt v hn hk
  · exact fun k hk hk16 => sext_getLsbD_of_ge v hk hk16

/-- Settles O9: the range of an N-bit immediate, at N = 5, 9 and 6. -/
theorem immediatesReadAsSignedNumbers : Obligations.ImmediatesReadAsSignedNumbers := by
  refine ⟨fun v => ?imm5, fun v => ?pcOffset9, fun v => ?offset6⟩
  case imm5 => simpa using sext_toInt_and_range v (by decide)
  case pcOffset9 => simpa using sext_toInt_and_range v (by decide)
  case offset6 => simpa using sext_toInt_and_range v (by decide)

end Sys2Proof.Machine
end

section
/-! Every instruction is one of five effects on the state. What an effect carries is computed from PC, CC (BR only),
memory and the registers of R15; what it then does to the state no longer depends on the instruction. -/

namespace Sys2Proof.Machine

/-- What an instruction does to the state. A write or a store carries the pointer that goes to EA, if there is one (R29). -/
inductive Effect where
  | write (pointer : Option Addr) (dr : RegIdx) (v : Word)
  | store (pointer : Option Addr) (a : Addr) (v : Word)
  | jump (target : Addr)
  | halt
  | raise (c : Condition)

/-- The effect carried out. -/
def Effect.apply : Effect → State → State
  | .write pointer dr v, s => ((s.latchPointer (pointer.getD s.ea)).setDest dr v).complete
  | .store pointer a v, s => ((s.latchPointer (pointer.getD s.ea)).store a v).complete
  | .jump target, s => (s.jump target).complete
  | .halt, s => s.halt
  | .raise c, s => s.raise c

/-- The register an effect writes. -/
def Effect.dest : Effect → Option RegIdx
  | .write _ dr _ => some dr
  | .store _ _ _ => none
  | .jump _ => none
  | .halt => none
  | .raise _ => none

/-- The address an effect stores to. -/
def Effect.storeAddress : Effect → Option Addr
  | .write _ _ _ => none
  | .store _ a _ => some a
  | .jump _ => none
  | .halt => none
  | .raise _ => none

/-- The effect of an instruction (R81 to R101). -/
def State.effect (cfg : Config) (s : State) : Instr → Effect
  | .addReg dr sr1 _ sr2 => .write none dr (s.reg sr1 + s.reg sr2)
  | .addImm dr sr1 imm5 => .write none dr (s.reg sr1 + sext imm5)
  | .andReg dr sr1 _ sr2 => .write none dr (s.reg sr1 &&& s.reg sr2)
  | .andImm dr sr1 imm5 => .write none dr (s.reg sr1 &&& sext imm5)
  | .not dr sr1 _ => .write none dr (~~~(s.reg sr1))
  | .br n z p pcOffset9 => .jump (if branchTaken n z p s.cc then s.pcRelative pcOffset9 else s.pc)
  | .ld dr pcOffset9 => .write none dr (s.load (s.pcRelative pcOffset9))
  | .ldi dr pcOffset9 => .write (some (s.pointer pcOffset9)) dr (s.load (s.pointer pcOffset9))
  | .ldr dr baseR offset6 => .write none dr (s.load (s.baseRelative baseR offset6))
  | .lea dr pcOffset9 => .write none dr (s.pcRelative pcOffset9)
  | .st sr pcOffset9 => .store none (s.pcRelative pcOffset9) (s.reg sr)
  | .sti sr pcOffset9 => .store (some (s.pointer pcOffset9)) (s.pointer pcOffset9) (s.reg sr)
  | .str sr baseR offset6 => .store none (s.baseRelative baseR offset6) (s.reg sr)
  | .trap _ trapvect8 => if trapvect8 = cfg.haltVector then .halt else .raise .unimplementedTrap
  | .invalid0100 _ => .raise .invalidOpcode
  | .invalid1000 _ => .raise .invalidOpcode
  | .invalid1100 _ => .raise .invalidOpcode
  | .invalid1101 _ => .raise .invalidOpcode

variable {cfg : Config} {i : Instr} {s s' t : State}

/-- The execute phase carries out the effect of the instruction. -/
theorem execWith_eq_apply (cfg : Config) (i : Instr) (s : State) :
    execWith cfg i s = .next ((s.effect cfg i).apply s) := by
  cases i with
  | br n z p off =>
    simp only [execWith, exec, execBr, State.effect]
    split <;> rfl
  | trap g v =>
    simp only [execWith, execTrapWith, State.effect]
    split <;> rfl
  | _ => rfl

theorem exec_eq_apply (i : Instr) (s : State) : exec i s = .next ((s.effect Config.standard i).apply s) :=
  (execWith_standard i s).symm.trans (execWith_eq_apply _ i s)

theorem eq_apply_of_execWith (h : execWith cfg i s = .next t) : t = (s.effect cfg i).apply s :=
  Host.Outcome.next.inj (h.symm.trans (execWith_eq_apply cfg i s))

theorem eq_apply_of_exec (h : exec i s = .next t) : t = (s.effect Config.standard i).apply s :=
  Host.Outcome.next.inj (h.symm.trans (exec_eq_apply i s))

/-! ### Which instruction has which effect -/

@[simp] theorem effect_dest : (s.effect cfg i).dest = i.dest := by
  cases i with
  | trap g v =>
    simp only [State.effect]
    split <;> rfl
  | _ => rfl

@[simp] theorem effect_storeAddress : (s.effect cfg i).storeAddress = s.storeAddress i := by
  cases i with
  | trap g v =>
    simp only [State.effect]
    split <;> rfl
  | _ => rfl

theorem effect_eq_write_none {d : RegIdx} (hd : i.dest = some d) (hi : ∀ dr off, i ≠ .ldi dr off) :
    ∃ v, s.effect cfg i = .write none d v := by
  cases i with
  | ldi dr off => exact absurd rfl (hi dr off)
  | _ => cases hd <;> exact ⟨_, rfl⟩

theorem effect_eq_jump {a : Addr} (h : s.effect cfg i = .jump a) : ∃ n z p off, i = .br n z p off := by
  cases i with
  | br n z p off => exact ⟨n, z, p, off, rfl⟩
  | trap g v =>
    simp only [State.effect] at h
    split at h <;> cases h
  | _ => cases h

theorem effect_eq_halt_iff : s.effect cfg i = .halt ↔ ∃ g, i = .trap g cfg.haltVector := by
  cases i with
  | trap g v => by_cases hv : v = cfg.haltVector <;> simp [State.effect, hv]
  | _ => simp [State.effect]

theorem effect_eq_unimplementedTrap_iff :
    s.effect cfg i = .raise .unimplementedTrap ↔ ∃ g v, i = .trap g v ∧ v ≠ cfg.haltVector := by
  cases i with
  | trap g v => by_cases hv : v = cfg.haltVector <;> simp [State.effect, hv]
  | _ => simp [State.effect]

theorem effect_eq_invalidOpcode_iff : s.effect cfg i = .raise .invalidOpcode ↔ i.isInvalid = true := by
  cases i with
  | trap g v => by_cases hv : v = cfg.haltVector <;> simp [State.effect, Instr.isInvalid, hv]
  | _ => simp [State.effect, Instr.isInvalid]

/-- The effect is computed from PC, memory, the registers read, and for BR the flag. -/
theorem effect_congr (hpc : s'.pc = s.pc) (hmem : s'.mem = s.mem) (hreg : ∀ r ∈ i.reads, s'.reg r = s.reg r)
    (hcc : (∃ n z p off, i = .br n z p off) → s'.cc = s.cc) : s'.effect cfg i = s.effect cfg i := by
  have hload : ∀ a, s'.load a = s.load a := fun a => by rw [State.load, hmem, State.load]
  have hrel : ∀ off, s'.pcRelative off = s.pcRelative off := fun off => by rw [State.pcRelative, hpc, State.pcRelative]
  have hptr : ∀ off, s'.pointer off = s.pointer off := fun off => by rw [State.pointer, hload, hrel, State.pointer]
  cases i with
  | br n z p off => simp [State.effect, hrel, hpc, hcc ⟨n, z, p, off, rfl⟩]
  | trap g v => rfl
  | _ => simp_all [State.effect, Instr.reads, State.baseRelative]

/-! ### What an effect reads and leaves unchanged -/

theorem Effect.reg_of_dest_ne {e : Effect} {q : RegIdx} (h : e.dest ≠ some q) : (e.apply s).reg q = s.reg q := by
  cases e with
  | write p dr v =>
    have hq : q ≠ dr := fun hq => h (congrArg some hq.symm)
    simp [Effect.apply, State.reg_setReg, hq]
  | raise c => cases c <;> rfl
  | _ => rfl

theorem Effect.cc_apply (e : Effect) : (e.apply s).cc = e.dest.elim s.cc fun d => setcc ((e.apply s).reg d) := by
  cases e with
  | write p dr v => simp [Effect.apply, Effect.dest, State.reg_setReg]
  | raise c => cases c <;> rfl
  | _ => rfl

/-- The register file before an effect reaches, after it, only the registers it does not write. -/
theorem Effect.apply_regs_irrelevant (e : Effect) (s : State) (other : Vector Word 8) :
    { e.apply { s with regs := other } with regs := (e.apply s).regs } = e.apply s ∧
      ∀ q, e.dest = some q → (e.apply { s with regs := other }).reg q = (e.apply s).reg q := by
  cases e with
  | write p dr v =>
    refine ⟨rfl, ?_⟩
    rintro q ⟨⟩
    simp [Effect.apply, State.reg_setReg]
  | raise c => exact ⟨by cases c <;> rfl, nofun⟩
  | _ => exact ⟨rfl, nofun⟩

/-- The flag before an effect reaches the state after it only as the flag, and only if the effect writes no register. -/
theorem Effect.apply_cc_irrelevant (e : Effect) (s : State) (c : CondFlag) :
    e.apply { s with cc := c } = { e.apply s with cc := if e.dest.isSome then (e.apply s).cc else c } := by
  cases e with
  | raise c => cases c <;> rfl
  | _ => rfl

end Sys2Proof.Machine
end

section
/-! The frames of the instructions, and what each reads: registers (R15), CC (R22), PC (R19), the report and the latches (R26,
R29). -/

namespace Sys2Proof.Machine

variable {i : Instr} {s t : State}

/-- Settles O28: the effect is a write of the destination, with a pointer for LDI only. -/
theorem registerWritersChangeOnlyTheirRegister : Obligations.RegisterWritersChangeOnlyTheirRegister := by
  intro i d s t hd h
  obtain rfl := eq_apply_of_exec h
  have hdest : (s.effect Config.standard i).dest = some d := effect_dest.trans hd
  have hother : ∀ q, q ≠ d → ((s.effect Config.standard i).apply s).reg q = s.reg q := fun q hq =>
    Effect.reg_of_dest_ne (by simp [hd, hq.symm])
  have hcc := (s.effect Config.standard i).cc_apply (s := s)
  rw [hdest] at hcc
  refine ⟨hother, hcc, ?_⟩
  by_cases hi : ∃ dr off, i = .ldi dr off
  · obtain ⟨dr, off, rfl⟩ := hi
    refine ⟨fun a => rfl, rfl, rfl, rfl, rfl, rfl, rfl, rfl, fun hne => absurd rfl (hne dr off), ?_⟩
    rintro _ _ ⟨⟩
    rfl
  · have hne : ∀ dr off, i ≠ .ldi dr off := fun dr off e => hi ⟨dr, off, e⟩
    obtain ⟨v, hv⟩ := effect_eq_write_none (cfg := Config.standard) (s := s) hd hne
    rw [hv]
    exact ⟨fun a => rfl, rfl, rfl, rfl, rfl, rfl, rfl, rfl, fun _ => rfl, fun dr off e => absurd e (hne dr off)⟩

/-- Settles O30: the effect is a jump, a halt or a raised condition. -/
theorem controlInstructionsFrame : Obligations.ControlInstructionsFrame := by
  intro i s t hdest hstore h
  obtain rfl := eq_apply_of_exec h
  cases he : s.effect Config.standard i with
  | write p d v => simp [← effect_dest (cfg := Config.standard) (s := s), he, Effect.dest] at hdest
  | store p a v => simp [← effect_storeAddress (cfg := Config.standard), he, Effect.storeAddress] at hstore
  | jump a =>
    obtain ⟨n, z, p, off, rfl⟩ := effect_eq_jump he
    exact ⟨fun _ => rfl, rfl, rfl, rfl, fun _ => rfl, fun _ => ⟨rfl, rfl, rfl, rfl, rfl⟩,
      fun hne => absurd rfl (hne n z p off), fun _ => rfl, fun _ => rfl⟩
  | halt =>
    obtain ⟨g, rfl⟩ := effect_eq_halt_iff.mp he
    exact ⟨fun _ => rfl, rfl, rfl, rfl, fun _ => rfl, nofun, fun _ => rfl, fun _ => rfl, nofun⟩
  | raise c =>
    cases c with
    | invalidOpcode =>
      have hi := effect_eq_invalidOpcode_iff.mp he
      refine ⟨fun _ => rfl, rfl, rfl, rfl, fun _ => rfl, ?_, fun _ => rfl, ?_, fun _ => rfl⟩
      · rintro ⟨n, z, p, off, rfl⟩
        cases hi
      · simp [hi]
    | unimplementedTrap =>
      obtain ⟨g, v, rfl, -⟩ := effect_eq_unimplementedTrap_iff.mp he
      exact ⟨fun _ => rfl, rfl, rfl, rfl, fun _ => rfl, nofun, fun _ => rfl, fun _ => rfl, nofun⟩

/-- Settles O31: states that agree on the registers read give an instruction the same effect. -/
theorem registersReadAndWrittenAreThoseOfTheTable : Obligations.RegistersReadAndWrittenAreThoseOfTheTable := by
  refine ⟨?operate, ?baseOffset, ?pcRelative, ?control, ?flow⟩
  case operate => exact fun _ _ _ _ _ => ⟨rfl, rfl, rfl, rfl, rfl, rfl, rfl, rfl⟩
  case baseOffset => exact fun _ _ _ _ => ⟨rfl, rfl, rfl, rfl, rfl, rfl⟩
  case pcRelative => exact fun _ _ _ _ _ => ⟨rfl, rfl, rfl, rfl, rfl, rfl, rfl, rfl, rfl, rfl, rfl, rfl⟩
  case control => exact fun _ _ _ => ⟨rfl, rfl, by simp [Instr.reads, Instr.dest]⟩
  case flow =>
    intro i s t t' other hagree h h'
    have heffect : State.effect Config.standard { s with regs := other } i = s.effect Config.standard i :=
      effect_congr rfl rfl hagree fun _ => rfl
    obtain rfl := eq_apply_of_exec h
    obtain rfl := eq_apply_of_exec h'
    rw [heffect]
    obtain ⟨hrest, hwritten⟩ := (s.effect Config.standard i).apply_regs_irrelevant s other
    refine ⟨hrest, fun q hq => hwritten q (effect_dest.trans hq), fun q hq => ?_⟩
    have hne : (s.effect Config.standard i).dest ≠ some q := fun e => hq (effect_dest.symm.trans e)
    exact ⟨Effect.reg_of_dest_ne hne, Effect.reg_of_dest_ne hne⟩

/-- Settles O32: CC follows the register the effect writes, and only BR's effect is computed from the flag. -/
theorem conditionFlagWrittenAndReadAsStated : Obligations.ConditionFlagWrittenAndReadAsStated := by
  constructor
  · intro i s t h
    have hcc := (s.effect Config.standard i).cc_apply (s := s)
    rw [← eq_apply_of_exec h, effect_dest] at hcc
    cases i <;> exact hcc
  · intro i s t t' c hne h h'
    have heffect : State.effect Config.standard { s with cc := c } i = s.effect Config.standard i :=
      effect_congr rfl rfl (fun _ _ => rfl) fun ⟨n, z, p, off, hi⟩ => absurd hi (hne n z p off)
    obtain rfl := eq_apply_of_exec h
    obtain rfl := eq_apply_of_exec h'
    rw [heffect, Effect.apply_cc_irrelevant, effect_dest]

/-- A step from an instruction boundary carries out, after the fetch, the effect of the word at PC (R63). -/
theorem eq_apply_of_step_ready (hs : s.Ready) (h : step s = .next t) :
    t = (s.fetch.effect Config.standard (decode (s.load s.pc))).apply s.fetch :=
  eq_apply_of_execWith ((stepWith_fetch _ hs.1 hs.2).symm.trans h)

theorem pc_apply_effect_of_ne_br {cfg : Config} (hi : ∀ n z p off, i ≠ .br n z p off) :
    ((s.effect cfg i).apply s).pc = s.pc := by
  cases he : s.effect cfg i with
  | jump a =>
    obtain ⟨n, z, p, off, hbr⟩ := effect_eq_jump he
    exact absurd hbr (hi n z p off)
  | raise c => cases c <;> rfl
  | _ => rfl

/-- Settles O33: after the fetch, only the effect of BR is a jump. -/
theorem pcWrittenOnlyByFetchAndTakenBranch : Obligations.PcWrittenOnlyByFetchAndTakenBranch := by
  intro s t hs h
  obtain rfl := eq_apply_of_step_ready hs h
  by_cases hbr : ∃ n z p off, decode (s.load s.pc) = .br n z p off
  · obtain ⟨n, z, p, off, hi⟩ := hbr
    rw [hi]
    exact .inr ⟨n, z, p, off, rfl, rfl⟩
  · have hne : ∀ n z p off, decode (s.load s.pc) ≠ .br n z p off := fun n z p off hi => hbr ⟨n, z, p, off, hi⟩
    exact .inl ⟨hne, pc_apply_effect_of_ne_br hne⟩

/-- An effect takes the registers, PC, CC, RUNNING, the FSM state and memory from these alone. -/
theorem Effect.apply_agrees (e : Effect) {s s' : State} (hregs : s'.regs = s.regs) (hpc : s'.pc = s.pc) (hcc : s'.cc = s.cc)
    (hrunning : s'.running = s.running) (hmem : s'.mem = s.mem) :
    (e.apply s').regs = (e.apply s).regs ∧ (e.apply s').pc = (e.apply s).pc ∧ (e.apply s').cc = (e.apply s).cc ∧
      (e.apply s').running = (e.apply s).running ∧ (e.apply s').fsm = (e.apply s).fsm ∧
      (e.apply s').mem = (e.apply s).mem := by
  cases e with
  | raise c => cases c <;> exact ⟨hregs, hpc, hcc, hrunning, rfl, hmem⟩
  | write p dr v => exact ⟨congrArg (fun regs => regs.set dr.toNat v dr.isLt) hregs, hpc, rfl, hrunning, rfl, hmem⟩
  | store p a v => exact ⟨hregs, hpc, hcc, hrunning, rfl, congrArg (fun mem => Memory.write mem a v) hmem⟩
  | jump a => exact ⟨hregs, rfl, hcc, hrunning, rfl, hmem⟩
  | halt => exact ⟨hregs, hpc, hcc, rfl, rfl, hmem⟩

/-- A ready block's step takes the rest of the state from the registers, PC, CC and memory alone. -/
theorem step_agrees {s s' t t' : State} (h : step s = .next t) (h' : step s' = .next t')
    (hs : s.Ready) (hs' : s'.Ready) (hregs : s'.regs = s.regs) (hpc : s'.pc = s.pc) (hcc : s'.cc = s.cc)
    (hmem : s'.mem = s.mem) :
    t'.regs = t.regs ∧ t'.pc = t.pc ∧ t'.cc = t.cc ∧ t'.running = t.running ∧ t'.fsm = t.fsm ∧ t'.mem = t.mem := by
  have hword : s'.load s'.pc = s.load s.pc := by rw [State.load, hmem, hpc, State.load]
  have hreg : ∀ r, s'.fetch.reg r = s.fetch.reg r := fun r => by simp [State.reg, hregs]
  have hfetch : s'.fetch.pc = s.fetch.pc := congrArg (· + 1#16) hpc
  have heffect : ∀ i, s'.fetch.effect Config.standard i = s.fetch.effect Config.standard i := fun i =>
    effect_congr hfetch hmem (fun r _ => hreg r) fun _ => hcc
  rw [eq_apply_of_step_ready hs h, eq_apply_of_step_ready hs' h', hword, heffect]
  exact Effect.apply_agrees _ hregs hfetch hcc (hs'.2.trans hs.2.symm) hmem

/-- Settles O42: two such states fetch the same word, and its effect takes the rest from what they share. -/
theorem reportAndLatchesDoNotSteerTheStep : Obligations.ReportAndLatchesDoNotSteerTheStep :=
  fun _ _ _ _ _ _ _ _ hs h h' => step_agrees h h' hs hs rfl rfl rfl rfl

end Sys2Proof.Machine
end

section
/-! The words of R102 (halt trap, other trap, invalid opcode) by their decoding, and the legal states: what each operation of a
step keeps of `State.Legal` (R26, R27, R66, R108). -/

namespace Sys2Proof.Machine

variable {cfg : Config} {s t : State} {w : Word}

theorem decode_of_opcode_trap (h : opcodeOf w = 0b1111#4) :
    decode w = .trap (w.extractLsb' 8 4) (w.extractLsb' 0 8) := by
  simp [decode, h]

/-- Only the last opcode decodes to TRAP. -/
theorem decode_eq_trap {g : BitVec 4} {v : BitVec 8} (h : decode w = .trap g v) :
    opcodeOf w = 0b1111#4 ∧ w.extractLsb' 0 8 = v := by
  unfold decode at h
  split at h
  case h_16 =>
    have hop : (opcodeOf w).toNat = 15 := by
      have := (opcodeOf w).isLt
      simp only [imp_false] at *
      omega
    exact ⟨BitVec.eq_of_toNat_eq hop, (Instr.trap.inj h).2⟩
  case h_2 => split at h <;> cases h
  case h_6 => split at h <;> cases h
  all_goals cases h

theorem haltWord_iff : haltWord cfg w = true ↔ ∃ g, decode w = .trap g cfg.haltVector := by
  simp only [haltWord, Bool.and_eq_true, beq_iff_eq]
  constructor
  · rintro ⟨hop, hv⟩
    exact ⟨_, hv ▸ decode_of_opcode_trap hop⟩
  · rintro ⟨g, h⟩
    exact decode_eq_trap h

theorem faultWord_iff : faultWord cfg w = true ↔ ∃ g v, decode w = .trap g v ∧ v ≠ cfg.haltVector := by
  simp only [faultWord, Bool.and_eq_true, beq_iff_eq, bne_iff_ne]
  constructor
  · rintro ⟨hop, hv⟩
    exact ⟨_, _, decode_of_opcode_trap hop, hv⟩
  · rintro ⟨g, v, h, hv⟩
    obtain ⟨hop, rfl⟩ := decode_eq_trap h
    exact ⟨hop, hv⟩

theorem effect_decode_eq_halt_iff : s.effect cfg (decode w) = .halt ↔ haltWord cfg w = true :=
  effect_eq_halt_iff.trans haltWord_iff.symm

theorem effect_decode_eq_unimplementedTrap_iff :
    s.effect cfg (decode w) = .raise .unimplementedTrap ↔ faultWord cfg w = true :=
  effect_eq_unimplementedTrap_iff.trans faultWord_iff.symm

theorem effect_decode_eq_invalidOpcode_iff :
    s.effect cfg (decode w) = .raise .invalidOpcode ↔ invalidWord w = true :=
  effect_eq_invalidOpcode_iff

/-! ### The legal states -/

theorem Effect.mem_wf_apply (e : Effect) (h : Memory.wf s.mem = true) : Memory.wf (e.apply s).mem = true := by
  cases e with
  | store p a v => exact Memory.wf_write h a v
  | raise c => cases c <;> exact h
  | _ => exact h

/-- A report that is no UnimplementedTrap stays legal while its registers stay. -/
theorem reportLegal_of_eq (h : reportLegal cfg s) (hx : s.xcause ≠ .unimplementedTrap) (hillop : t.illop = s.illop)
    (hxcause : t.xcause = s.xcause) (hxinfo : t.xinfo = s.xinfo) : reportLegal cfg t := by
  unfold reportLegal at h ⊢
  rw [hxcause]
  split
  next hc => simpa [hc, hillop, hxinfo] using h
  next hc => simpa [hc, hillop, hxinfo] using h
  next hc => exact absurd hc hx

namespace State.Legal

theorem running_of_ne_halt (h : s.Legal cfg) (hf : s.fsm ≠ .halt) : s.running = true := by
  simpa using mt h.halted.mp hf

theorem xcause_of_ne_fault (h : s.Legal cfg) (hf : s.fsm ≠ .fault) : s.xcause ≠ .unimplementedTrap :=
  mt h.faulted.mp hf

/-- A move of a working block to another working state that keeps RUNNING and the report keeps legality, if it keeps memory
canonical and sets IR and EA as the new FSM state wants. -/
theorem of_working (h : s.Legal cfg) (hs : s.fsm ≠ .halt ∧ s.fsm ≠ .fault) (ht : t.fsm ≠ .halt ∧ t.fsm ≠ .fault)
    (hmem : Memory.wf t.mem = true) (hrunning : t.running = s.running) (hillop : t.illop = s.illop)
    (hxcause : t.xcause = s.xcause) (hxinfo : t.xinfo = s.xinfo) (hlatches : latchesLegal cfg t) : t.Legal cfg where
  memory := hmem
  halted := by simp [hrunning, h.running_of_ne_halt hs.1, ht.1]
  faulted := by simp [hxcause, h.xcause_of_ne_fault hs.2, ht.2]
  report := reportLegal_of_eq h.report (h.xcause_of_ne_fault hs.2) hillop hxcause hxinfo
  latches := hlatches

theorem fetch (h : s.Legal cfg) (hf : s.fsm = .fetch) : s.fetch.Legal cfg := by
  refine h.of_working (by simp [hf]) (by simp) h.memory rfl rfl rfl rfl ?_
  simp [latchesLegal]

/-- The end of an instruction that neither halts nor raises a condition. -/
theorem completed (h : s.Legal cfg) (hs : s.fsm ≠ .halt ∧ s.fsm ≠ .fault) (ht : t.fsm = .fetch)
    (hmem : Memory.wf t.mem = true) (hrunning : t.running = s.running) (hillop : t.illop = s.illop)
    (hxcause : t.xcause = s.xcause) (hxinfo : t.xinfo = s.xinfo) : t.Legal cfg :=
  h.of_working hs (by simp [ht]) hmem hrunning hillop hxcause hxinfo (by simp [latchesLegal, ht])

theorem halt (h : s.Legal cfg) (hf : s.fsm ≠ .fault) (hw : haltWord cfg s.ir = true) : s.halt.Legal cfg where
  memory := h.memory
  halted := by simp
  faulted := by simp [h.xcause_of_ne_fault hf]
  report := reportLegal_of_eq h.report (h.xcause_of_ne_fault hf) rfl rfl rfl
  latches := hw

theorem raise_invalidOpcode (h : s.Legal cfg) (hf : s.fsm ≠ .halt) (hw : invalidWord s.ir = true) :
    (s.raise .invalidOpcode).Legal cfg where
  memory := h.memory
  halted := by simp [h.running_of_ne_halt hf]
  faulted := by simp
  report := ⟨rfl, hw⟩
  latches := trivial

theorem raise_unimplementedTrap (h : s.Legal cfg) (hf : s.fsm ≠ .halt) (hw : faultWord cfg s.ir = true) :
    (s.raise .unimplementedTrap).Legal cfg where
  memory := h.memory
  halted := by simp [h.running_of_ne_halt hf]
  faulted := by simp
  report := ⟨hw, rfl⟩
  latches := hw

/-- The execute phase of the word in IR ends in a legal state. -/
theorem apply_effect (h : s.Legal cfg) (hf : s.fsm = .exec) : ((s.effect cfg (decode s.ir)).apply s).Legal cfg := by
  have hs : s.fsm ≠ .halt ∧ s.fsm ≠ .fault := by simp [hf]
  have hmem := (s.effect cfg (decode s.ir)).mem_wf_apply h.memory
  cases he : s.effect cfg (decode s.ir) with
  | write p d v => exact h.completed hs rfl (he ▸ hmem) rfl rfl rfl rfl
  | store p a v => exact h.completed hs rfl (he ▸ hmem) rfl rfl rfl rfl
  | jump a => exact h.completed hs rfl (he ▸ hmem) rfl rfl rfl rfl
  | halt => exact h.halt hs.2 (effect_decode_eq_halt_iff.mp he)
  | raise c =>
    cases c with
    | invalidOpcode => exact h.raise_invalidOpcode hs.1 (effect_decode_eq_invalidOpcode_iff.mp he)
    | unimplementedTrap => exact h.raise_unimplementedTrap hs.1 (effect_decode_eq_unimplementedTrap_iff.mp he)

/-- The second access of LDI and STI ends in a legal state. -/
theorem secondAccess (h : s.Legal cfg) (hf : s.fsm = .mem2) (i : Instr) : (s.secondAccess i).Legal cfg := by
  have hs : s.fsm ≠ .halt ∧ s.fsm ≠ .fault := by simp [hf]
  cases i with
  | sti sr off => exact h.completed hs rfl (Memory.wf_write h.memory _ _) rfl rfl rfl rfl
  | _ => exact h.completed hs rfl h.memory rfl rfl rfl rfl

end State.Legal

/-- The cases of a step: a whole instruction, the rest of one, or nothing (R63, R64). -/
theorem stepWith_cases (h : stepWith cfg s = .next t) :
    (s.fsm = .fetch ∧ t = (s.fetch.effect cfg (decode s.fetch.ir)).apply s.fetch) ∨
      (s.fsm = .exec ∧ t = (s.effect cfg (decode s.ir)).apply s) ∨
      (s.fsm = .mem2 ∧ t = s.secondAccess (decode s.ir)) ∨ t = s := by
  unfold stepWith at h
  split at h
  · split at h
    next hf => exact .inl ⟨hf, eq_apply_of_execWith h⟩
    next hf => exact .inr (.inl ⟨hf, eq_apply_of_execWith h⟩)
    next hf => exact .inr (.inr (.inl ⟨hf, (Host.Outcome.next.inj h).symm⟩))
    next => exact .inr (.inr (.inr (Host.Outcome.next.inj h).symm))
    next => exact .inr (.inr (.inr (Host.Outcome.next.inj h).symm))
  · exact .inr (.inr (.inr (Host.Outcome.next.inj h).symm))

theorem State.Legal.of_stepWith (h : s.Legal cfg) (hstep : stepWith cfg s = .next t) : t.Legal cfg := by
  obtain ⟨hf, rfl⟩ | ⟨hf, rfl⟩ | ⟨hf, rfl⟩ | rfl := stepWith_cases hstep
  · exact (h.fetch hf).apply_effect rfl
  · exact h.apply_effect hf
  · exact h.secondAccess hf _
  · exact h

/-- Settles O58: legality is kept by the step of a block with any parameters, `Config.standard` among them. -/
theorem stepKeepsTheStateLegal : Obligations.StepKeepsTheStateLegal :=
  fun _ _ h hstep => h.of_stepWith hstep

end Sys2Proof.Machine
end

section
/-! The active clock edge, FSM state by FSM state, in the words of the instruction-level operations (R66 to R77). -/

namespace Sys2Proof.Machine

variable {s : State} (cfg : Config)

theorem activeEdge_fetch (hf : s.fsm = .fetch) : s.activeEdge cfg = s.fetch := by
  simp [State.activeEdge, State.signals, controlSignals, State.nextPc, State.nextCause, State.nextMem, State.request,
    State.memAddress, State.memRdata, nextFsm, State.fetch, hf]

theorem activeEdge_stopped (hf : s.fsm = .halt ∨ s.fsm = .fault) : s.activeEdge cfg = s := by
  rcases hf with hf | hf <;>
  simp [State.activeEdge, State.signals, controlSignals, State.nextPc, State.nextCause, State.nextMem, State.request,
    nextFsm, hf] <;> rw [← hf]

/-- The first access of LDI and STI latches the pointer (R68). -/
theorem activeEdge_exec_indirect (hf : s.fsm = .exec) (hop : opcodeOf s.ir = 0b1010#4 ∨ opcodeOf s.ir = 0b1011#4) :
    s.activeEdge cfg = { s.latchPointer (s.pointer (s.ir.extractLsb' 0 9)) with fsm := .mem2 } := by
  rcases hop with h | h <;>
  simp [State.activeEdge, State.signals, controlSignals, execSignals, State.nextPc, State.nextCause, State.nextMem,
    State.request, nextFsm, State.memAddress, State.memRdata, State.adder, addressAdder, State.latchPointer,
    State.pointer, State.pcRelative, hf, h]

/-- S_MEM2 makes the second access (R69). -/
theorem activeEdge_mem2 (hf : s.fsm = .mem2) (hop : opcodeOf s.ir = 0b1010#4 ∨ opcodeOf s.ir = 0b1011#4) :
    s.activeEdge cfg = s.secondAccess (decode s.ir) := by
  rcases hop with h | h <;>
  simp [State.activeEdge, State.signals, controlSignals, mem2Signals, State.nextPc, State.nextCause, State.nextMem,
    State.request, nextFsm, State.memAddress, State.memRdata, State.readPort, State.writeBack, decode, State.secondAccess,
    State.loadThroughEa, State.storeThroughEa, State.setDest, State.setReg, State.store, State.complete, hf, h]

theorem takenLogic_eq_branchTaken (w : Word) (cc : CondFlag) :
    takenLogic w cc = branchTaken (w.getLsbD 11) (w.getLsbD 10) (w.getLsbD 9) cc := by
  have h (k : Nat) (hk : k < 3) : w.getLsbD (9 + k) = (w.extractLsb' 9 3).getLsbD k := by simp [hk]
  rw [takenLogic, h 2 (by decide), h 1 (by decide), h 0 (by decide)]
  generalize w.extractLsb' 9 3 = b
  revert b
  cases cc <;> decide

theorem activeEdge_operate (hf : s.fsm = .exec)
    (hop : opcodeOf s.ir = 0b0001#4 ∨ opcodeOf s.ir = 0b0101#4 ∨ opcodeOf s.ir = 0b1001#4) :
    s.activeEdge cfg = (s.effect cfg (decode s.ir)).apply s := by
  rcases hop with h | h | h <;> cases h5 : s.ir.getLsbD 5 <;>
  simp [State.activeEdge, State.signals, controlSignals, execSignals, State.nextPc, State.nextCause, State.nextMem,
    State.request, nextFsm, State.writeBack, aluResult, aluOperandB, State.readPort, Effect.apply, State.effect, decode,
    State.setDest, State.setReg, State.latchPointer, State.complete, hf, h, h5, -BitVec.getLsbD_eq_getElem]

theorem activeEdge_load (hf : s.fsm = .exec)
    (hop : opcodeOf s.ir = 0b0010#4 ∨ opcodeOf s.ir = 0b0110#4 ∨ opcodeOf s.ir = 0b1110#4) :
    s.activeEdge cfg = (s.effect cfg (decode s.ir)).apply s := by
  rcases hop with h | h | h <;>
  simp [State.activeEdge, State.signals, controlSignals, execSignals, State.nextPc, State.nextCause, State.nextMem,
    State.request, nextFsm, State.writeBack, State.memRdata, State.memAddress, State.adder, addressAdder, State.readPort,
    Effect.apply, State.effect, decode, State.pcRelative, State.baseRelative,
    State.setDest, State.setReg, State.latchPointer, State.complete, hf, h]

theorem activeEdge_store (hf : s.fsm = .exec) (hop : opcodeOf s.ir = 0b0011#4 ∨ opcodeOf s.ir = 0b0111#4) :
    s.activeEdge cfg = (s.effect cfg (decode s.ir)).apply s := by
  rcases hop with h | h <;>
  simp [State.activeEdge, State.signals, controlSignals, execSignals, State.nextPc, State.nextCause, State.nextMem,
    State.request, nextFsm, State.memAddress, State.adder, addressAdder, State.readPort,
    Effect.apply, State.effect, decode, State.pcRelative, State.baseRelative,
    State.store, State.latchPointer, State.complete, hf, h]

theorem activeEdge_br (hf : s.fsm = .exec) (h : opcodeOf s.ir = 0b0000#4) :
    s.activeEdge cfg = (s.effect cfg (decode s.ir)).apply s := by
  simp [State.activeEdge, State.signals, controlSignals, execSignals, State.nextPc, State.nextCause, State.nextMem,
    State.request, nextFsm, State.adder, addressAdder, takenLogic_eq_branchTaken,
    Effect.apply, State.effect, decode, State.pcRelative, State.jump, State.complete, hf, h]

theorem activeEdge_trap (hf : s.fsm = .exec) (h : opcodeOf s.ir = 0b1111#4) :
    s.activeEdge cfg = (s.effect cfg (decode s.ir)).apply s := by
  by_cases hv : s.ir.extractLsb' 0 8 = cfg.haltVector <;>
  simp [State.activeEdge, State.signals, controlSignals, execSignals, State.nextPc, State.nextCause, State.nextMem,
    State.request, nextFsm, Effect.apply, State.effect, decode, State.halt, State.raise, hf, h, hv]

theorem activeEdge_invalid (hf : s.fsm = .exec) (hop : opcodeOf s.ir = 0b0100#4 ∨ opcodeOf s.ir = 0b1000#4 ∨
    opcodeOf s.ir = 0b1100#4 ∨ opcodeOf s.ir = 0b1101#4) :
    s.activeEdge cfg = (s.effect cfg (decode s.ir)).apply s := by
  rcases hop with h | h | h | h <;>
  simp [State.activeEdge, State.signals, controlSignals, execSignals, State.nextPc, State.nextCause, State.nextMem,
    State.request, nextFsm, Effect.apply, State.effect, decode, State.raise, hf, h]

/-- The opcodes by what the instruction does: BR, ALU operation, load, store, TRAP, no routine, and the two with two accesses. -/
theorem opcode_classes (o : BitVec 4) :
    o = 0b0000#4 ∨
      (o = 0b0001#4 ∨ o = 0b0101#4 ∨ o = 0b1001#4) ∨
      (o = 0b0010#4 ∨ o = 0b0110#4 ∨ o = 0b1110#4) ∨
      (o = 0b0011#4 ∨ o = 0b0111#4) ∨
      o = 0b1111#4 ∨
      (o = 0b0100#4 ∨ o = 0b1000#4 ∨ o = 0b1100#4 ∨ o = 0b1101#4) ∨
      (o = 0b1010#4 ∨ o = 0b1011#4) := by
  revert o
  decide

/-- S_EXEC carries out the instruction in IR, but for LDI and STI, which need another cycle (R68, R80). -/
theorem activeEdge_exec (hf : s.fsm = .exec) (hop : ¬ (opcodeOf s.ir = 0b1010#4 ∨ opcodeOf s.ir = 0b1011#4)) :
    s.activeEdge cfg = (s.effect cfg (decode s.ir)).apply s := by
  obtain h | h | h | h | h | h | h := opcode_classes (opcodeOf s.ir)
  · exact activeEdge_br cfg hf h
  · exact activeEdge_operate cfg hf h
  · exact activeEdge_load cfg hf h
  · exact activeEdge_store cfg hf h
  · exact activeEdge_trap cfg hf h
  · exact activeEdge_invalid cfg hf h
  · exact absurd h hop

/-! ### Every edge keeps the legal states -/

namespace State.Legal

variable {cfg : Config}

theorem resetEdge (h : s.Legal cfg) (cfg' : Config) (pcLoad : Option Word) : (s.resetEdge cfg' pcLoad).Legal cfg where
  memory := h.memory
  halted := by simp
  faulted := by simp
  report := ⟨rfl, rfl⟩
  latches := trivial

/-- The first access of LDI and STI leads to a legal state of S_MEM2. -/
theorem latchPointer_mem2 (h : s.Legal cfg) (hf : s.fsm = .exec)
    (hop : opcodeOf s.ir = 0b1010#4 ∨ opcodeOf s.ir = 0b1011#4) :
    State.Legal cfg { s.latchPointer (s.pointer (s.ir.extractLsb' 0 9)) with fsm := .mem2 } := by
  have hir : s.ir = s.load (s.pc - 1#16) := by
    simpa [latchesLegal, hf] using h.latches
  exact h.of_working (by simp [hf]) (by simp) h.memory rfl rfl rfl rfl ⟨hir, hop, rfl⟩

theorem activeEdge (h : s.Legal cfg) : (s.activeEdge cfg).Legal cfg := by
  cases hf : s.fsm with
  | fetch =>
    rw [activeEdge_fetch cfg hf]
    exact h.fetch hf
  | exec =>
    by_cases hop : opcodeOf s.ir = 0b1010#4 ∨ opcodeOf s.ir = 0b1011#4
    · rw [activeEdge_exec_indirect cfg hf hop]
      exact h.latchPointer_mem2 hf hop
    · rw [activeEdge_exec cfg hf hop]
      exact h.apply_effect hf
  | mem2 =>
    have hlatches := h.latches
    simp only [latchesLegal, hf] at hlatches
    obtain ⟨-, hop, -⟩ := hlatches
    rw [activeEdge_mem2 cfg hf hop]
    exact h.secondAccess hf _
  | halt =>
    rw [activeEdge_stopped cfg (.inl hf)]
    exact h
  | fault =>
    rw [activeEdge_stopped cfg (.inr hf)]
    exact h

end State.Legal

/-- Settles O59: the reset edge, the active edge and the held one each lead from a legal state to a legal state. -/
theorem clockEdgeKeepsTheStateLegal : Obligations.ClockEdgeKeepsTheStateLegal := by
  intro cfg s inp h
  obtain ⟨-, he⟩ | ⟨-, -, he⟩ | ⟨-, -, he⟩ := s.clock_cases cfg inp
  · rw [he]
    exact h.resetEdge cfg _
  · rw [he]
    exact h.activeEdge
  · rw [he]
    exact h

end Sys2Proof.Machine
end

section
/-! The reset state (R32), the flags that only reset sets back (RUNNING, R24; ILLOP, R26), and the condition flag and its codes
(R20, R21). -/

namespace Sys2Proof.Machine

variable {s : State}

theorem Effect.running_apply (e : Effect) : (e.apply s).running = true ↔ s.running = true ∧ e ≠ .halt := by
  cases e with
  | halt => simp [Effect.apply]
  | raise c => cases c <;> simp [Effect.apply]
  | _ => simp [Effect.apply]

theorem Effect.illop_apply (e : Effect) (h : s.illop = true) : (e.apply s).illop = true := by
  cases e with
  | raise c => cases c <;> simp [Effect.apply, h]
  | _ => exact h

theorem secondAccess_illop (s : State) (i : Instr) : (s.secondAccess i).illop = s.illop := by
  cases i <;> rfl

/-- Settles O57: the reset state is legal, field by field. -/
theorem resetStateIsLegal : Obligations.ResetStateIsLegal where
  memory := Memory.wf_reset
  halted := by simp [State.reset]
  faulted := by simp [State.reset]
  report := ⟨rfl, rfl⟩
  latches := trivial

/-- Settles O60: no effect and no edge but reset's writes a 0 to ILLOP. -/
theorem illopIsSticky : Obligations.IllopIsSticky := by
  constructor
  · intro s t hs h
    obtain ⟨-, rfl⟩ | ⟨-, rfl⟩ | ⟨-, rfl⟩ | rfl := stepWith_cases h
    · exact Effect.illop_apply _ hs
    · exact Effect.illop_apply _ hs
    · rw [secondAccess_illop]
      exact hs
    · exact hs
  · intro cfg s inp hs ht
    obtain ⟨hrst, -⟩ | ⟨-, -, he⟩ | ⟨-, -, he⟩ := s.clock_cases cfg inp
    · exact hrst
    · simp [he, State.activeEdge, hs] at ht
    · simp [he, hs] at ht

/-- Settles O37: RUNNING is cleared by the halt effect only, which is that of the halt trap. -/
theorem runningClearedOnlyByTheHaltTrap : Obligations.RunningClearedOnlyByTheHaltTrap := by
  refine ⟨rfl, ?cleared, ?execNeverSets, ?edgeNeverSets, ?resetSets, ?stopped, ?faults⟩
  case cleared =>
    intro s t hs h
    rw [eq_apply_of_step_ready hs h, ← Bool.not_eq_true, Effect.running_apply,
      ← effect_decode_eq_halt_iff (s := s.fetch)]
    simp [hs.2]
  case execNeverSets =>
    intro i s t h ht
    rw [eq_apply_of_exec h, Effect.running_apply] at ht
    exact ht.1
  case edgeNeverSets =>
    intro cfg s inp ht
    obtain ⟨hrst, -⟩ | ⟨-, -, he⟩ | ⟨-, -, he⟩ := s.clock_cases cfg inp
    · exact .inr hrst
    · rw [he] at ht
      exact .inl (Bool.and_elim_left ht)
    · rw [he] at ht
      exact .inl ht
  case resetSets =>
    intro cfg s inp hrst
    simp [State.clock, hrst]
  case stopped => exact fun s hs => stepWith_stopped _ (.inl hs)
  case faults =>
    intro s t hs hw h
    rw [eq_apply_of_step_ready hs h, effect_decode_eq_unimplementedTrap_iff.mpr hw]
    exact ⟨hs.2, rfl⟩

/-- Settles O10: the codes by definition, and that there is no fourth value by cases. -/
theorem conditionFlagIsOneHot : Obligations.ConditionFlagIsOneHot := by
  refine ⟨rfl, rfl, rfl, fun c => ?_⟩
  cases c <;> decide

theorem ne_zero_of_one_le {v : Word} (h : 1 ≤ v.toNat) : v ≠ 0x0000#16 := by
  rintro rfl
  exact absurd h (by decide)

theorem getLsbD_15_eq_decide (v : Word) : v.getLsbD 15 = decide (0x8000 ≤ v.toNat) :=
  v.msb_eq_getLsbD_last.symm.trans v.msb_eq_decide

/-- Settles O11: a word other than 0x0000 is told positive from negative by bit 15, which is set from 0x8000 on. -/
theorem setccClassifiesTheWholeRange : Obligations.SetccClassifiesTheWholeRange := by
  refine fun v => ⟨?zero, ?positive, ?negative⟩
  case zero =>
    rintro rfl
    rfl
  case positive =>
    intro hlo hhi
    have hne := ne_zero_of_one_le hlo
    have hsign : ¬ 0x8000 ≤ v.toNat := by omega
    simp [setcc, hne, getLsbD_15_eq_decide, hsign, CondFlag.bits, -BitVec.getLsbD_eq_getElem]
  case negative =>
    intro hlo
    have hne : v ≠ 0x0000#16 := ne_zero_of_one_le (by omega)
    simp [setcc, hne, getLsbD_15_eq_decide, hlo, CondFlag.bits, -BitVec.getLsbD_eq_getElem]

/-- Settles O47: the reset edge overwrites everything but memory, and a host load replaces PC_RESET. -/
theorem resetStateHasTheSpecifiedValues : Obligations.ResetStateHasTheSpecifiedValues := by
  refine ⟨?_, rfl, rfl, rfl, rfl, rfl, rfl, rfl, rfl, rfl, fun _ => rfl, ?_, ?_, ?_⟩
  · intro r
    simp [State.reg, State.reset]
  · intro s inp hmem hrst hload
    simp [State.clock, hrst, hload, State.resetEdge, State.reset, hmem]
  · intro s inp hrst hload
    simp [State.clock, hrst, hload]
  · intro cfg s inp hrst
    simp [State.clock, hrst]

end Sys2Proof.Machine
end

section
/-! Memory as the array its reads show (R34, R35): a read after a sequence of writes, and extensionality of the canonical form. -/

namespace Sys2Proof.Machine

theorem Memory.wf_foldl_write {m : Memory} (h : Memory.wf m = true) (writes : List (Addr × Word)) :
    Memory.wf (writes.foldl (fun m w => Memory.write m w.1 w.2) m) = true := by
  induction writes generalizing m with
  | nil => exact h
  | cons w ws ih => exact ih (Memory.wf_write h w.1 w.2)

/-- Settles O43, by induction on the writes from the last one back: the last write decides, or the writes before it do. -/
theorem readReturnsTheMostRecentWrite : Obligations.ReadReturnsTheMostRecentWrite := by
  refine ⟨fun m writes a hm => ?_, fun _ => rfl⟩
  induction writes using List.reverseRecOn with
  | nil => rfl
  | append_singleton ws w ih =>
    rw [List.foldl_append, List.foldl_cons, List.foldl_nil, Memory.read_write (Memory.wf_foldl_write hm ws),
      List.reverse_append, List.reverse_singleton, List.singleton_append, List.find?_cons]
    by_cases hw : w.1 = a
    · simp [hw]
    · have hbeq : (w.1 == a) = false := beq_eq_false_iff_ne.mpr hw
      rw [if_neg (Ne.symm hw), hbeq]
      exact ih

theorem Memory.wfFrom_cons {lo a : Nat} {v : Word} {m : Memory} :
    Memory.wfFrom lo ((a, v) :: m) = true ↔
      lo ≤ a ∧ a < 65536 ∧ v ≠ Memory.unlisted ∧ Memory.wfFrom (a + 1) m = true := by
  simp [Memory.wfFrom, and_assoc]

theorem Memory.readAt_cons_self (a : Nat) (v : Word) (m : Memory) : Memory.readAt ((a, v) :: m) a = v := by
  simp [Memory.readAt]

theorem Memory.readAt_cons_of_ne {a c : Nat} (v : Word) (m : Memory) (h : c ≠ a) :
    Memory.readAt ((a, v) :: m) c = Memory.readAt m c := by
  simp [Memory.readAt, h]

/-- The first entry of a memory reads as something listed, so a memory that reads alike starts no later. -/
theorem Memory.head_le_of_readAt_eq {lo lo' a b : Nat} {v w : Word} {m m' : Memory}
    (h : Memory.wfFrom lo ((a, v) :: m) = true) (h' : Memory.wfFrom lo' ((b, w) :: m') = true)
    (hread : Memory.readAt ((a, v) :: m) a = Memory.readAt ((b, w) :: m') a) : b ≤ a := by
  obtain ⟨-, -, hv, -⟩ := Memory.wfFrom_cons.mp h
  obtain ⟨-, hb, hw, hm'⟩ := Memory.wfFrom_cons.mp h'
  by_contra hab
  rw [Memory.readAt_cons_self, Memory.readAt_below (Memory.wfFrom_cons.mpr ⟨le_rfl, hb, hw, hm'⟩) (not_le.mp hab)] at hread
  exact hv hread

theorem Memory.eq_nil_of_readAt_eq {lo : Nat} {m : Memory} (h : Memory.wfFrom lo m = true)
    (hread : ∀ c, c < 65536 → Memory.readAt m c = Memory.unlisted) : m = [] := by
  cases m with
  | nil => rfl
  | cons e m =>
    obtain ⟨-, ha, hv, -⟩ := Memory.wfFrom_cons.mp h
    exact absurd ((Memory.readAt_cons_self _ _ _).symm.trans (hread _ ha)) hv

/-- Canonical memories that read alike below 65,536 have the same first entry, and so, in turn, every entry. -/
theorem Memory.eq_of_readAt_eq {lo : Nat} {m m' : Memory} (h : Memory.wfFrom lo m = true) (h' : Memory.wfFrom lo m' = true)
    (hread : ∀ c, c < 65536 → Memory.readAt m c = Memory.readAt m' c) : m = m' := by
  induction m generalizing lo m' with
  | nil => exact (Memory.eq_nil_of_readAt_eq h' fun c hc => (hread c hc).symm).symm
  | cons e m ih =>
    obtain ⟨a, v⟩ := e
    cases m' with
    | nil => exact Memory.eq_nil_of_readAt_eq h hread
    | cons e' m' =>
      obtain ⟨b, w⟩ := e'
      obtain ⟨-, ha, -, hm⟩ := Memory.wfFrom_cons.mp h
      obtain ⟨-, hb, -, hm'⟩ := Memory.wfFrom_cons.mp h'
      obtain rfl : a = b := le_antisymm (Memory.head_le_of_readAt_eq h' h (hread b hb).symm)
        (Memory.head_le_of_readAt_eq h h' (hread a ha))
      obtain rfl : v = w := by simpa only [Memory.readAt_cons_self] using hread a ha
      have htail : ∀ c, c < 65536 → Memory.readAt m c = Memory.readAt m' c := by
        intro c hc
        by_cases hca : c = a
        · rw [hca, Memory.readAt_below hm a.lt_succ_self, Memory.readAt_below hm' a.lt_succ_self]
        · simpa only [Memory.readAt_cons_of_ne v _ hca] using hread c hc
      rw [ih hm hm' htail]

/-- Settles O44: the addresses are the numbers below 65,536, where the canonical form is determined by its reads. -/
theorem equalReadsMeanEqualMemories : Obligations.EqualReadsMeanEqualMemories := by
  intro m m' h h' hread
  refine Memory.eq_of_readAt_eq h h' fun c hc => ?_
  have hc16 : (BitVec.ofNat 16 c).toNat = c := Nat.mod_eq_of_lt hc
  simpa only [Memory.read, hc16] using hread (BitVec.ofNat 16 c)

end Sys2Proof.Machine
end

section
/-! A store over one step of the block (R48, R126). -/

namespace Sys2Proof.Machine

variable {i : Instr} {a : Addr} {sr : RegIdx} {s : State}

/-- A store writes x[SR], and SR is the first register that R15 lists for it. -/
theorem effect_eq_store {cfg : Config} (ha : s.storeAddress i = some a) (hsr : i.reads.head? = some sr) :
    ∃ pointer, s.effect cfg i = .store pointer a (s.reg sr) := by
  cases i with
  | st r off => cases ha; cases hsr; exact ⟨_, rfl⟩
  | sti r off => cases ha; cases hsr; exact ⟨_, rfl⟩
  | str r b off => cases ha; cases hsr; exact ⟨_, rfl⟩
  | _ => cases ha

theorem step_ready (hs : s.Ready) :
    step s = .next ((s.fetch.effect Config.standard (decode (s.load s.pc))).apply s.fetch) :=
  (stepWith_fetch _ hs.1 hs.2).trans (execWith_eq_apply _ _ _)

/-- Settles O41: the effect after the fetch is a store, and the next fetch is a load of the state after it. -/
theorem storeIsSeenByTheNextFetch : Obligations.StoreIsSeenByTheNextFetch := by
  rintro s i a sr hs hm rfl ha hsr
  obtain ⟨pointer, he⟩ := effect_eq_store (cfg := Config.standard) ha hsr
  have hload : (Effect.apply (.store pointer a (s.reg sr)) s.fetch).load a = s.reg sr :=
    (State.load_store (s := s.fetch) hm a a (s.reg sr)).trans (if_pos rfl)
  refine ⟨_, step_ready hs, ?_⟩
  rw [he]
  exact ⟨rfl, hload, fun hpc => by rw [State.fetch_ir, hpc]; exact hload⟩

end Sys2Proof.Machine
end

section
/-! The memory port (R47): what each kind of access drives, and that an edge does to memory what the port shows. -/

namespace Sys2Proof.Machine

/-- The memory after an access. -/
def MemRequest.apply : MemRequest → Memory → Memory
  | .idle, m => m
  | .read _, m => m
  | .write a v, m => Memory.write m a v

variable {cfg : Config} {s : State} {inp : Inputs}

theorem portRequest_idle (h : inp.rst = true ∨ inp.ce = false) : s.portRequest cfg inp = .idle :=
  if_pos (by simpa using h)

theorem portRequest_active (hrst : inp.rst = false) (hce : inp.ce = true) :
    s.portRequest cfg inp = s.request cfg := by
  simp [State.portRequest, hrst, hce]

theorem nextMem_eq_apply (cfg : Config) (s : State) : s.nextMem cfg = (s.request cfg).apply s.mem := by
  unfold State.nextMem
  cases s.request cfg <;> rfl

/-- Every edge, of reset, active or held, carries out on memory the access on the port. -/
theorem clock_mem (cfg : Config) (s : State) (inp : Inputs) :
    (s.clock cfg inp).mem = (s.portRequest cfg inp).apply s.mem := by
  obtain ⟨hrst, he⟩ | ⟨hrst, hce, he⟩ | ⟨-, hce, he⟩ := s.clock_cases cfg inp
  · rw [he, portRequest_idle (.inl hrst)]
    rfl
  · rw [he, portRequest_active hrst hce]
    exact nextMem_eq_apply cfg s
  · rw [he, portRequest_idle (.inr hce)]
    rfl

theorem outputs_of_idle (h : s.portRequest cfg inp = .idle) :
    (s.outputs cfg inp).memRe = false ∧ (s.outputs cfg inp).memWe = false ∧
      (s.outputs cfg inp).memAddr = 0x0000#16 ∧ (s.outputs cfg inp).memWdata = 0x0000#16 := by
  simp [State.outputs, h]

theorem outputs_of_read {a : Addr} (h : s.portRequest cfg inp = .read a) :
    (s.outputs cfg inp).memRe = true ∧ (s.outputs cfg inp).memWe = false := by
  simp [State.outputs, h]

theorem outputs_of_write {a : Addr} {v : Word} (h : s.portRequest cfg inp = .write a v) :
    (s.outputs cfg inp).memRe = false ∧ (s.outputs cfg inp).memWe = true ∧
      (s.outputs cfg inp).memAddr = a ∧ (s.outputs cfg inp).memWdata = v := by
  simp [State.outputs, h]

/-- Settles O53, by the access on the port: none, a read or a write. -/
theorem memoryPortProtocol : Obligations.MemoryPortProtocol := by
  intro cfg s inp
  have hmem := clock_mem cfg s inp
  have hheld : inp.rst = true ∨ inp.ce = false → s.portRequest cfg inp = .idle := portRequest_idle
  cases hreq : s.portRequest cfg inp with
  | idle =>
    obtain ⟨hre, hwe, haddr, hdata⟩ := outputs_of_idle hreq
    rw [hreq] at hmem
    exact ⟨by simp [hre], fun _ => ⟨hre, hwe⟩, fun _ _ => ⟨haddr, hdata⟩, fun _ => hmem, by simp [hwe]⟩
  | read a =>
    obtain ⟨hre, hwe⟩ := outputs_of_read hreq
    rw [hreq] at hmem hheld
    exact ⟨by simp [hwe], fun h => absurd (hheld h) nofun, by simp [hre], fun _ => hmem, by simp [hwe]⟩
  | write a v =>
    obtain ⟨hre, hwe, haddr, hdata⟩ := outputs_of_write hreq
    rw [hreq] at hmem hheld
    refine ⟨by simp [hre], fun h => absurd (hheld h) nofun, by simp [hwe], by simp [hwe], fun _ hwf => ?_⟩
    have hload : ∀ c, (s.clock cfg inp).load c = if c = a then v else s.load c := fun c => by
      rw [State.load, hmem]
      exact Memory.read_write hwf a c v
    rw [haddr, hdata]
    exact ⟨(hload a).trans (if_pos rfl), fun c hc => (hload c).trans (if_neg hc)⟩

end Sys2Proof.Machine
end

section
/-! The accesses of an instruction (R40, R44): the request of each cycle by the instruction in IR, and the trace of its cycles. -/

namespace Sys2Proof.Machine

variable {s : State} {w : Word} (cfg : Config)

/-! ### The opcode of a decoded word -/

/-- A word's opcode is that of the row it decodes to: sixteen opcodes, and bit 5 for the two forms of ADD and AND. -/
theorem opcodeOf_eq_row (w : Word) : opcodeOf w = opcodeOf (decode w).row.matchBits := by
  cases h5 : w.getLsbD 5 <;>
  obtain h | (h | h | h) | (h | h | h) | (h | h) | h | (h | h | h | h) | (h | h) := opcode_classes (opcodeOf w) <;>
  simp [decode, h, h5, Instr.row, -BitVec.getLsbD_eq_getElem] <;> decide

theorem decode_of_opcode_ldi (h : opcodeOf w = 0b1010#4) : decode w = .ldi (w.extractLsb' 9 3) (w.extractLsb' 0 9) := by
  simp [decode, h]

theorem decode_of_opcode_sti (h : opcodeOf w = 0b1011#4) : decode w = .sti (w.extractLsb' 9 3) (w.extractLsb' 0 9) := by
  simp [decode, h]

theorem decode_eq_ldi {dr : RegIdx} {off : BitVec 9} (h : decode w = .ldi dr off) :
    opcodeOf w = 0b1010#4 ∧ w.extractLsb' 0 9 = off := by
  have hop : opcodeOf w = 0b1010#4 := by
    rw [opcodeOf_eq_row, h, Instr.row]
    decide
  exact ⟨hop, (Instr.ldi.inj ((decode_of_opcode_ldi hop).symm.trans h)).2⟩

theorem decode_eq_sti {sr : RegIdx} {off : BitVec 9} (h : decode w = .sti sr off) :
    opcodeOf w = 0b1011#4 ∧ w.extractLsb' 0 9 = off := by
  have hop : opcodeOf w = 0b1011#4 := by
    rw [opcodeOf_eq_row, h, Instr.row]
    decide
  exact ⟨hop, (Instr.sti.inj ((decode_of_opcode_sti hop).symm.trans h)).2⟩

/-! ### The request of each cycle -/

/-- The access of the S_EXEC cycle (R68). -/
def State.execRequest (s : State) : Instr → MemRequest
  | .ld _ off => .read (s.pcRelative off)
  | .ldr _ b off => .read (s.baseRelative b off)
  | .ldi _ off => .read (s.pcRelative off)
  | .st sr off => .write (s.pcRelative off) (s.reg sr)
  | .str sr b off => .write (s.baseRelative b off) (s.reg sr)
  | .sti _ off => .read (s.pcRelative off)
  | .addReg _ _ _ _ => .idle
  | .addImm _ _ _ => .idle
  | .andReg _ _ _ _ => .idle
  | .andImm _ _ _ => .idle
  | .not _ _ _ => .idle
  | .br _ _ _ _ => .idle
  | .lea _ _ => .idle
  | .trap _ _ => .idle
  | .invalid0100 _ => .idle
  | .invalid1000 _ => .idle
  | .invalid1100 _ => .idle
  | .invalid1101 _ => .idle

theorem request_fetch (hf : s.fsm = .fetch) : s.request cfg = .read s.pc := by
  simp [State.request, State.signals, controlSignals, State.memAddress, hf]

/-- The access of the S_EXEC cycle, from the decoder's outputs. -/
theorem request_exec_signals (hf : s.fsm = .exec) :
    s.request cfg =
      if (execSignals cfg s.ir s.cc).memRe then .read (s.adder cfg)
      else if (execSignals cfg s.ir s.cc).memWe then .write (s.adder cfg) (s.readPort (execSignals cfg s.ir s.cc).rselB)
      else .idle := by
  simp [State.request, State.signals, controlSignals, State.memAddress, hf]

theorem adder_exec (hf : s.fsm = .exec) :
    s.adder cfg = addressAdder (execSignals cfg s.ir s.cc).addrSel s.pc
      (s.readPort (execSignals cfg s.ir s.cc).rselA) s.ir := by
  simp [State.adder, State.signals, controlSignals, hf]

theorem request_exec (hf : s.fsm = .exec) : s.request cfg = s.execRequest (decode s.ir) := by
  rw [request_exec_signals cfg hf, adder_exec cfg hf]
  obtain br | operate | load | store | trap | invalid | indirect := opcode_classes (opcodeOf s.ir)
  · simp [execSignals, decode, State.execRequest, br]
  · cases h5 : s.ir.getLsbD 5 <;> rcases operate with h | h | h <;>
      simp [execSignals, decode, State.execRequest, h, h5, -BitVec.getLsbD_eq_getElem]
  · rcases load with h | h | h <;>
      simp [execSignals, decode, State.execRequest, addressAdder, State.readPort, State.pcRelative, State.baseRelative, h]
  · rcases store with h | h <;>
      simp [execSignals, decode, State.execRequest, addressAdder, State.readPort, State.pcRelative, State.baseRelative, h]
  · simp [execSignals, decode, State.execRequest, trap]
  · rcases invalid with h | h | h | h <;> simp [execSignals, decode, State.execRequest, h]
  · rcases indirect with h | h <;> simp [execSignals, decode, State.execRequest, addressAdder, State.pcRelative, h]

theorem request_mem2_ldi (hf : s.fsm = .mem2) (h : opcodeOf s.ir = 0b1010#4) : s.request cfg = .read s.ea := by
  simp [State.request, State.signals, controlSignals, mem2Signals, State.memAddress, hf, h]

theorem request_mem2_sti (hf : s.fsm = .mem2) (h : opcodeOf s.ir = 0b1011#4) :
    s.request cfg = .write s.ea (s.reg (s.ir.extractLsb' 9 3)) := by
  simp [State.request, State.signals, controlSignals, mem2Signals, State.memAddress, State.readPort, hf, h]

/-! ### The trace of an instruction -/

/-- A cycle's contribution to the trace. -/
def MemRequest.toList : MemRequest → List MemRequest
  | .idle => []
  | .read a => [.read a]
  | .write a v => [.write a v]

theorem busTrace_succ (s : State) (n : Nat) :
    s.busTrace cfg (n + 1) = (s.request cfg).toList ++ (s.activeEdge cfg).busTrace cfg n := by
  rw [State.busTrace, State.clock_run]
  cases s.request cfg <;> rfl

/-- The first two cycles: the fetch, and the access of S_EXEC. -/
theorem busTrace_fetch_exec (hf : s.fsm = .fetch) (n : Nat) :
    s.busTrace cfg (n + 2) =
      .read s.pc :: ((s.fetch.execRequest (decode (s.load s.pc))).toList ++ (s.fetch.activeEdge cfg).busTrace cfg n) := by
  rw [busTrace_succ, request_fetch cfg hf, activeEdge_fetch cfg hf, busTrace_succ, request_exec cfg rfl, State.fetch_ir]
  rfl

/-- The third cycle of LDI reads through the pointer. -/
theorem busTrace_ldi (hf : s.fsm = .exec) {dr : RegIdx} {off : BitVec 9} (h : decode s.ir = .ldi dr off) :
    (s.activeEdge cfg).busTrace cfg 1 = [.read (s.pointer off)] := by
  obtain ⟨hop, rfl⟩ := decode_eq_ldi h
  have he := activeEdge_exec_indirect cfg hf (.inl hop)
  rw [busTrace_succ, request_mem2_ldi cfg (by rw [he]) (by rw [he]; exact hop), he]
  rfl

/-- The third cycle of STI writes through the pointer. -/
theorem busTrace_sti (hf : s.fsm = .exec) {sr : RegIdx} {off : BitVec 9} (h : decode s.ir = .sti sr off) :
    (s.activeEdge cfg).busTrace cfg 1 = [.write (s.pointer off) (s.reg sr)] := by
  obtain ⟨hop, rfl⟩ := decode_eq_sti h
  obtain ⟨rfl, -⟩ := Instr.sti.inj ((decode_of_opcode_sti hop).symm.trans h)
  have he := activeEdge_exec_indirect cfg hf (.inr hop)
  rw [busTrace_succ, request_mem2_sti cfg (by rw [he]) (by rw [he]; exact hop), he]
  rfl

/-- Settles O54: two cycles, of which S_EXEC makes the access of R68, and for LDI and STI a third. -/
theorem accessesHappenInTheOrderOfTheTable : Obligations.AccessesHappenInTheOrderOfTheTable := by
  intro cfg s hf
  have htrace := busTrace_fetch_exec cfg hf
  cases hi : decode (s.load s.pc) with
  | ldi dr off =>
    rw [cyclesOf, htrace 1, hi, busTrace_ldi cfg (s := s.fetch) rfl hi]
    rfl
  | sti sr off =>
    rw [cyclesOf, htrace 1, hi, busTrace_sti cfg (s := s.fetch) rfl hi]
    rfl
  | _ =>
    rw [cyclesOf, htrace 0, hi]
    rfl

end Sys2Proof.Machine
end

section
/-! Decoding and encoding (R51 to R62): where the fields stand, the rows of the opcode table, the bits that no field names, and
the pseudo-instructions. -/

namespace Sys2Proof.Machine

variable {w w' : Word}

/-! ### The layout of R54 -/

/-- Settles O1: decoding dispatches on the opcode, and for ADD and AND on bit 5 too. -/
theorem fieldsSitWhereTheLayoutTableSays : Obligations.FieldsSitWhereTheLayoutTableSays := by
  intro w
  refine ⟨?addReg, ?addImm, ?andReg, ?andImm, ?_, ?_, ?_, ?_, ?_, ?_, ?_, ?_, ?_, ?_, ?_, ?_, ?_, ?_⟩
  case addReg | addImm | andReg | andImm =>
    intro hop h5
    simp [decode, opcodeOf, hop, h5, -BitVec.getLsbD_eq_getElem]
  all_goals
    intro hop
    simp [decode, opcodeOf, hop]

/-- An instruction is encoded under the opcode of its row. -/
theorem opcodeOf_encode (i : Instr) : opcodeOf (encode i) = opcodeOf i.row.matchBits := by
  cases i <;>
    simp (disch := decide) only [opcodeOf, encode, Instr.row, BitVec.extractLsb'_setWidth_of_le,
      BitVec.extractLsb'_append_eq_of_le, BitVec.reduceExtractLsb', Nat.reduceSub]

/-- Settles O2: the opcode of the encoding selects the arm of the decoder, where each field is read back from where it was put.
What is then left are single bits: the form bit of ADD and AND, and n, z and p. -/
theorem decodeOfEncodeIsIdentity : Obligations.DecodeOfEncodeIsIdentity := by
  intro i
  cases i
  all_goals
    simp only [decode, opcodeOf_encode, Instr.row]
    simp only [opcodeOf, BitVec.reduceExtractLsb', BitVec.reduceToNat]
    simp (disch := decide) only [encode, BitVec.extractLsb'_setWidth_of_le, BitVec.extractLsb'_append_eq_of_le,
      BitVec.extractLsb'_append_eq_right, BitVec.getLsbD_setWidth, BitVec.getLsbD_append, Nat.reduceSub, Nat.reduceLT]
  case addReg | addImm | andReg | andImm | br => simp

/-! ### The rows of the opcode table -/

/-- The word with the given opcode and bit 5, all other bits 0. -/
def formWord (opcode : BitVec 4) (bit5 : Bool) : Word :=
  (opcode ++ 0#6 ++ BitVec.ofBool bit5 ++ 0#5).setWidth 16

theorem and_formMask (w : Word) : w &&& 0xF020#16 = formWord (opcodeOf w) (w.getLsbD 5) := by
  ext k hk
  simp only [formWord, opcodeOf, BitVec.getElem_and, BitVec.getElem_setWidth, ↓BitVec.getLsbD_append]
  interval_cases k <;> simp

theorem opcodeOf_formWord : ∀ (o : BitVec 4) (b : Bool), opcodeOf (formWord o b) = o := by
  decide

theorem getLsbD_formWord : ∀ (o : BitVec 4) (b : Bool), (formWord o b).getLsbD 5 = b := by
  decide

/-- No row fixes a bit other than the opcode and bit 5. -/
theorem selects_formWord {r : Row} (hr : r ∈ opcodeTable) (w : Word) :
    r.selects (formWord (opcodeOf w) (w.getLsbD 5)) = r.selects w := by
  have hmask : ∀ r ∈ opcodeTable, 0xF020#16 &&& r.mask = r.mask := by decide
  rw [← and_formMask, Row.selects, Row.selects, BitVec.and_assoc, hmask r hr]

/-- The row of a decoded word depends on the opcode and bit 5 only. -/
theorem row_decode_congr (hop : opcodeOf w = opcodeOf w') (h5 : w.getLsbD 5 = w'.getLsbD 5) :
    (decode w).row = (decode w').row := by
  simp only [decode, hop, h5]
  split
  case h_2 | h_6 => split <;> rfl
  all_goals rfl

/-- R59 on the 32 words that differ in the opcode and bit 5. -/
theorem filter_selects_formWord : ∀ (o : BitVec 4) (b : Bool),
    opcodeTable.filter (fun r => r.selects (formWord o b)) = [(decode (formWord o b)).row] := by
  decide

/-- Settles O4: the rows that select a word, and the row it decodes to, are those of the word with its opcode and bit 5. -/
theorem everyWordSelectsExactlyOneRow : Obligations.EveryWordSelectsExactlyOneRow := by
  intro w
  calc opcodeTable.filter (fun r => r.selects w)
      = opcodeTable.filter (fun r => r.selects (formWord (opcodeOf w) (w.getLsbD 5))) :=
        List.filter_congr fun r hr => (selects_formWord hr w).symm
    _ = [(decode (formWord (opcodeOf w) (w.getLsbD 5))).row] := filter_selects_formWord _ _
    _ = [(decode w).row] := by rw [row_decode_congr (opcodeOf_formWord _ _) (getLsbD_formWord _ _)]

/-! ### The worked examples and the ignored bits -/

/-- Settles O5, word by word. -/
theorem exampleWordsDecode : Obligations.ExampleWordsDecode := by
  unfold Obligations.ExampleWordsDecode
  decide

/-- Settles O6: no arm of the execute phase is given the ignored bits, and the three words differ in them only. -/
theorem ignoredBitsDoNotMatter : Obligations.IgnoredBitsDoNotMatter := by
  have hnot (dr sr1 : RegIdx) (g g' : BitVec 6) (s : State) : exec (.not dr sr1 g) s = exec (.not dr sr1 g') s := rfl
  refine ⟨fun _ _ _ _ _ _ => rfl, fun _ _ _ _ _ _ => rfl, hnot, fun _ _ _ _ => rfl, fun s => ?_⟩
  have hdecode : decode 0x9A3F#16 = .not 5#3 0#3 0b111111#6 ∧ decode 0x9A2A#16 = .not 5#3 0#3 0b101010#6 ∧
      decode 0x9A00#16 = .not 5#3 0#3 0b000000#6 := by decide
  obtain ⟨h3F, h2A, h00⟩ := hdecode
  rw [h3F, h2A, h00]
  exact ⟨hnot _ _ _ _ s, hnot _ _ _ _ s, hnot _ _ _ _ s⟩

/-! ### The pseudo-instructions -/

theorem branchTaken_none (cc : CondFlag) : branchTaken false false false cc = false := by
  cases cc <;> rfl

theorem branchTaken_all (cc : CondFlag) : branchTaken true true true cc = true := by
  cases cc <;> rfl

theorem exec_br_none (off : BitVec 9) (s : State) : exec (.br false false false off) s = .next s.complete := by
  rw [exec_eq_apply, State.effect, branchTaken_none]
  rfl

theorem exec_br_all (off : BitVec 9) (s : State) :
    exec (.br true true true off) s = .next (s.jump (s.pcRelative off)).complete := by
  rw [exec_eq_apply, State.effect, branchTaken_all]
  rfl

theorem exec_trap_haltVector (g : BitVec 4) (s : State) : exec (.trap g Config.standard.haltVector) s = .next s.halt := by
  rw [exec_eq_apply, effect_eq_halt_iff.mpr ⟨g, rfl⟩]
  rfl

theorem exec_trap_of_ne {v : BitVec 8} (hv : v ≠ Config.standard.haltVector) (g : BitVec 4) (s : State) :
    exec (.trap g v) s = .next (s.raise .unimplementedTrap) := by
  rw [exec_eq_apply, effect_eq_unimplementedTrap_iff.mpr ⟨g, v, rfl, hv⟩]
  rfl

theorem encode_br_all (off : BitVec 9) : encode (.br true true true off) = 0x0E00#16 ||| off.setWidth 16 := by
  ext k hk
  simp only [encode, BitVec.getElem_or, BitVec.getElem_setWidth, ↓BitVec.getLsbD_append]
  interval_cases k <;> simp

/-- Settles O7: the words, of which only BR's has a field, and the effects of BR, TRAP and opcode 1100. -/
theorem pseudoInstructionsAreTheseWords : Obligations.PseudoInstructionsAreTheseWords := by
  refine ⟨by decide, by decide, by decide, by decide, by decide, by decide, by decide, by decide, encode_br_all, fun s => ?_⟩
  refine ⟨exec_trap_haltVector _ s, exec_br_none _ s, fun off => exec_br_all off s, rfl, fun p hp => ?_⟩
  fin_cases hp <;> exact exec_trap_of_ne (by decide) _ s

end Sys2Proof.Machine
end

section
/-! The instruction on the clocked block (R66 to R72, R78 to R80): the cycles it takes by its opcode, what its cycles do
together, and the last of them. -/

namespace Sys2Proof.Machine

variable {s : State} (cfg : Config)

/-! ### From S_EXEC to the end of the instruction -/

/-- The cycles of a word's instruction, by its opcode (R79). -/
theorem cyclesOf_decode (w : Word) :
    cyclesOf (decode w) = if opcodeOf w = 0b1010#4 ∨ opcodeOf w = 0b1011#4 then 3 else 2 := by
  by_cases hop : opcodeOf w = 0b1010#4 ∨ opcodeOf w = 0b1011#4
  · rw [if_pos hop]
    rcases hop with ldi | sti
    · rw [decode_of_opcode_ldi ldi]
      rfl
    · rw [decode_of_opcode_sti sti]
      rfl
  · rw [if_neg hop]
    cases hi : decode w with
    | ldi dr off => exact absurd (.inl (decode_eq_ldi hi).1) hop
    | sti sr off => exact absurd (.inr (decode_eq_sti hi).1) hop
    | _ => rfl

/-- The two accesses of LDI and STI, in S_EXEC and in S_MEM2, make their effect. -/
theorem activeEdge_activeEdge_indirect (hf : s.fsm = .exec)
    (hop : opcodeOf s.ir = 0b1010#4 ∨ opcodeOf s.ir = 0b1011#4) :
    (s.activeEdge cfg).activeEdge cfg = (s.effect cfg (decode s.ir)).apply s := by
  have hfirst := activeEdge_exec_indirect cfg hf hop
  have hir : (s.activeEdge cfg).ir = s.ir := by rw [hfirst, State.latchPointer_ir]
  rw [activeEdge_mem2 cfg (by rw [hfirst]) (hir ▸ hop), hir, hfirst]
  rcases hop with ldi | sti
  · rw [decode_of_opcode_ldi ldi]
    rfl
  · rw [decode_of_opcode_sti sti]
    rfl

/-- Clocked from S_EXEC for the cycles that the fetch leaves, the block carries out the effect of the instruction in IR. -/
theorem runClock_exec (hf : s.fsm = .exec) :
    s.runClock cfg (cyclesOf (decode s.ir) - 1) = (s.effect cfg (decode s.ir)).apply s := by
  rw [cyclesOf_decode]
  split
  next hop => exact activeEdge_activeEdge_indirect cfg hf hop
  next hop => exact activeEdge_exec cfg hf hop

/-- Settles O56: the execute phase is the effect that the remaining cycles carry out, and S_MEM2 is one cycle. -/
theorem stepCompletesTheInstructionInProgress : Obligations.StepCompletesTheInstructionInProgress := by
  constructor
  · intro cfg s hf hr
    rw [stepWith_exec cfg hf hr, execWith_eq_apply, runClock_exec cfg hf]
  · intro cfg s hf hr hop
    rw [stepWith_mem2 cfg hf hr]
    exact congrArg Host.Outcome.next (activeEdge_mem2 cfg hf hop).symm

/-! ### From S_FETCH to the end of the instruction -/

/-- One of an instruction's cycles is the fetch. -/
theorem cyclesOf_eq_succ (i : Instr) : cyclesOf i = cyclesOf i - 1 + 1 := by
  cases i <;> rfl

theorem runClock_succ_of_fetch (hf : s.fsm = .fetch) (n : Nat) : s.runClock cfg (n + 1) = s.fetch.runClock cfg n := by
  rw [State.runClock, State.clock_run, activeEdge_fetch cfg hf]

/-- Clocked from S_FETCH for the cycles of the instruction at PC, the block carries out its effect after the fetch. -/
theorem runClock_fetch (hf : s.fsm = .fetch) :
    s.runClock cfg (cyclesOf (decode (s.load s.pc))) =
      (s.fetch.effect cfg (decode (s.load s.pc))).apply s.fetch := by
  rw [cyclesOf_eq_succ, runClock_succ_of_fetch cfg hf]
  exact runClock_exec cfg rfl

/-- With the block running, instr_done is 1 in S_MEM2, and in S_EXEC for all but LDI and STI (R78). -/
theorem instrDone_run_iff (s : State) : s.instrDone .run = true ↔
    s.fsm = .mem2 ∨ s.fsm = .exec ∧ ¬ (opcodeOf s.ir = 0b1010#4 ∨ opcodeOf s.ir = 0b1011#4) := by
  cases hf : s.fsm <;> simp [State.instrDone, Inputs.run, hf]

/-- Among the cycles of an instruction, instr_done is 1 in the last one only. -/
theorem instrDone_runClock_iff (hf : s.fsm = .fetch) {k : Nat} (hk : k < cyclesOf (decode (s.load s.pc))) :
    (s.runClock cfg k).instrDone .run = true ↔ k + 1 = cyclesOf (decode (s.load s.pc)) := by
  rw [cyclesOf_decode] at hk ⊢
  rw [instrDone_run_iff]
  match k with
  | 0 =>
    simp only [State.runClock, hf]
    split <;> simp
  | 1 =>
    rw [runClock_succ_of_fetch cfg hf, State.runClock, State.fetch_fsm, State.fetch_ir]
    split <;> next hop => simp [hop]
  | 2 =>
    have hop : opcodeOf (s.load s.pc) = 0b1010#4 ∨ opcodeOf (s.load s.pc) = 0b1011#4 := by
      by_contra hop
      simp [hop] at hk
    have hmem2 : (s.runClock cfg 2).fsm = .mem2 := by
      rw [runClock_succ_of_fetch cfg hf, State.runClock, State.clock_run, activeEdge_exec_indirect cfg (s := s.fetch) rfl hop]
      rfl
    simp [hmem2, hop]
  | k + 3 => split at hk <;> omega

/-- An instruction ends at an instruction boundary or in a stopped state (R72). -/
theorem Effect.fsm_apply (e : Effect) :
    (e.apply s).fsm = .fetch ∨ (e.apply s).fsm = .halt ∨ (e.apply s).fsm = .fault := by
  cases e with
  | halt => exact .inr (.inl rfl)
  | raise c =>
    cases c with
    | invalidOpcode => exact .inl rfl
    | unimplementedTrap => exact .inr (.inr rfl)
  | _ => exact .inl rfl

/-- Settles O55: both levels carry out, after the fetch, the effect of the word at PC. -/
theorem clockedBlockRefinesTheStep : Obligations.ClockedBlockRefinesTheStep := by
  intro cfg s hs
  obtain ⟨hf, hr⟩ := hs
  rw [runClock_fetch cfg hf]
  refine ⟨?step, fun k hk => instrDone_runClock_iff cfg hf hk, Effect.fsm_apply _⟩
  rw [stepWith_fetch cfg hf hr, execWith_eq_apply, State.fetch_ir]

/-- Settles O35: at the default parameters the execute phase is `exec`. -/
theorem stepRunsTheDecodedInstruction : Obligations.StepRunsTheDecodedInstruction := by
  rintro s i ⟨hf, hr⟩ rfl
  exact (stepWith_fetch _ hf hr).trans (execWith_standard _ _)

end Sys2Proof.Machine
end

section
/-! The single cycles of the FSM: S_FETCH (R67), S_EXEC by class (R68), S_MEM2 (R69), and the stopped states (R64, R70, R71). -/

namespace Sys2Proof.Machine

variable {s : State} (cfg : Config)

/-- Without reset an edge is the active one or holds the state (R117). -/
theorem clock_of_not_reset {inp : Inputs} (hrst : inp.rst = false) :
    s.clock cfg inp = s.activeEdge cfg ∨ s.clock cfg inp = s := by
  obtain ⟨hrst', -⟩ | ⟨-, -, he⟩ | ⟨-, -, he⟩ := s.clock_cases cfg inp
  · simp [hrst] at hrst'
  · exact .inl he
  · exact .inr he

/-- Settles O50: of the three kinds of edge, only the active one in S_FETCH loads IR. -/
theorem fetchCycle : Obligations.FetchCycle := by
  refine ⟨fun cfg s hf => ⟨request_fetch cfg hf, activeEdge_fetch cfg hf⟩, fun cfg s inp hf hrst => ?irKept⟩
  rcases clock_of_not_reset cfg hrst (s := s) with he | he
  · rw [he]
    exact if_neg hf
  · rw [he]

/-- The S_EXEC cycle of an instruction that ends with it. -/
theorem execCycle {i : Instr} (hf : s.fsm = .exec) (hi : decode s.ir = i) (hcycles : cyclesOf i = 2) :
    s.request cfg = s.execRequest i ∧ s.clock cfg .run = (s.effect cfg i).apply s := by
  subst hi
  refine ⟨request_exec cfg hf, activeEdge_exec cfg hf fun hop => ?_⟩
  rw [cyclesOf_decode, if_pos hop] at hcycles
  exact absurd hcycles (by decide)

/-- Settles O51: the access is `State.execRequest`; the edge carries out the effect, or for LDI and STI latches the pointer. -/
theorem execCycleActsByClass : Obligations.ExecCycleActsByClass := by
  intro cfg s hf
  cases hi : decode s.ir with
  | ldi dr off =>
    obtain ⟨hop, rfl⟩ := decode_eq_ldi hi
    exact ⟨(request_exec cfg hf).trans (congrArg s.execRequest hi), activeEdge_exec_indirect cfg hf (.inl hop)⟩
  | sti sr off =>
    obtain ⟨hop, rfl⟩ := decode_eq_sti hi
    exact ⟨(request_exec cfg hf).trans (congrArg s.execRequest hi), activeEdge_exec_indirect cfg hf (.inr hop)⟩
  | trap g v =>
    obtain ⟨hrequest, hedge⟩ := execCycle cfg hf hi rfl
    refine ⟨hrequest, hedge.trans ?_⟩
    simp only [State.effect]
    split <;> rfl
  | _ => exact execCycle cfg hf hi rfl

theorem nextFsm_eq_mem2 {fsm : FsmState} {ir : Word} (h : nextFsm cfg fsm ir = .mem2) :
    fsm = .exec ∧ (opcodeOf ir = 0b1010#4 ∨ opcodeOf ir = 0b1011#4) := by
  cases fsm with
  | exec =>
    refine ⟨rfl, ?_⟩
    by_contra hop
    simp only [nextFsm, hop, if_false] at h
    split at h
    · split at h <;> cases h
    · cases h
  | _ => cases h

/-- Settles O52: S_MEM2 makes the second access, and only the next-state function in S_EXEC leads to it. -/
theorem secondAccessCycle : Obligations.SecondAccessCycle := by
  refine ⟨?ldi, ?sti, ?entry⟩
  case ldi =>
    intro cfg s hf hop
    refine ⟨request_mem2_ldi cfg hf hop, (activeEdge_mem2 cfg hf (.inl hop)).trans ?_⟩
    rw [decode_of_opcode_ldi hop]
    rfl
  case sti =>
    intro cfg s hf hop
    refine ⟨request_mem2_sti cfg hf hop, (activeEdge_mem2 cfg hf (.inr hop)).trans ?_⟩
    rw [decode_of_opcode_sti hop]
    rfl
  case entry =>
    intro cfg s inp hf ht
    obtain ⟨-, he⟩ | ⟨-, -, he⟩ | ⟨-, -, he⟩ := s.clock_cases cfg inp <;> rw [he] at ht
    · cases ht
    · exact nextFsm_eq_mem2 cfg ht
    · exact absurd ht hf

/-! ### The stopped states -/

theorem request_stopped (hf : s.fsm = .halt ∨ s.fsm = .fault) : s.request cfg = .idle := by
  rcases hf with hf | hf <;> simp [State.request, State.signals, controlSignals, hf]

theorem clock_stopped (hf : s.fsm = .halt ∨ s.fsm = .fault) {inp : Inputs} (hrst : inp.rst = false) :
    s.clock cfg inp = s := by
  rcases clock_of_not_reset cfg hrst (s := s) with he | he
  · exact he.trans (activeEdge_stopped cfg hf)
  · exact he

theorem clockAll_stopped (hf : s.fsm = .halt ∨ s.fsm = .fault) {inps : List Inputs} (hrst : ∀ i ∈ inps, i.rst = false) :
    s.clockAll cfg inps = s := by
  induction inps with
  | nil => rfl
  | cons inp inps ih =>
    obtain ⟨hinp, hinps⟩ := List.forall_mem_cons.mp hrst
    rw [State.clockAll, clock_stopped cfg hf hinp, ih hinps]

theorem portRequest_stopped (hf : s.fsm = .halt ∨ s.fsm = .fault) (inp : Inputs) : s.portRequest cfg inp = .idle := by
  rw [State.portRequest, request_stopped cfg hf, ite_self]

/-- Settles O36: a stopped block keeps its state at each edge and makes no request, and the reset edge makes it ready. -/
theorem stoppedBlockDoesNothingUntilReset : Obligations.StoppedBlockDoesNothingUntilReset := by
  refine ⟨?step, ?edges, ?reset⟩
  case step => exact fun s h => stepWith_stopped _ (h.imp_right .inr)
  case edges =>
    intro cfg s inps hf hrst
    refine ⟨clockAll_stopped cfg hf hrst, fun inp => ?_⟩
    obtain ⟨hre, hwe, -⟩ := outputs_of_idle (portRequest_stopped cfg hf inp)
    exact ⟨hre, hwe⟩
  case reset =>
    intro cfg s inp hrst
    simp [State.clock, hrst, State.Ready]

end Sys2Proof.Machine
end

section
/-! ADD, AND and NOT (R81 to R85): the words of their rows by match and mask, and the write to DR and CC. -/

namespace Sys2Proof.Machine

variable {w : Word} {s : State}

/-- The mask 0xF000 keeps the whole opcode. -/
theorem opcodeOf_and_opcodeMask (w : Word) : opcodeOf (w &&& 0xF000#16) = opcodeOf w := by
  simp only [opcodeOf, BitVec.extractLsb'_and, BitVec.reduceExtractLsb']
  exact BitVec.and_allOnes

/-- A word agrees with a match under the mask 0xF020 in the opcode and in bit 5. -/
theorem opcode_and_bit5_of_formMask {m : Word} (h : w &&& 0xF020#16 = m) :
    opcodeOf w = opcodeOf m ∧ w.getLsbD 5 = m.getLsbD 5 := by
  rw [← h, and_formMask]
  exact ⟨(opcodeOf_formWord _ _).symm, (getLsbD_formWord _ _).symm⟩

/-- A word agrees with a match under the mask 0xF000 in the opcode. -/
theorem opcodeOf_of_opcodeMask {m : Word} (h : w &&& 0xF000#16 = m) : opcodeOf w = opcodeOf m := by
  rw [← h, opcodeOf_and_opcodeMask]

/-- The next state of an instruction whose effect is a write without a pointer (R22, R68). -/
theorem exec_of_effect_eq_write {i : Instr} {dr : RegIdx} {v : Word} (h : s.effect Config.standard i = .write none dr v) :
    exec i s = .next { s with regs := (s.setReg dr v).regs, cc := setcc v, fsm := .fetch } := by
  rw [exec_eq_apply, h]
  rfl

/-- Settles O12: the match fixes opcode 0001 and bit 5 = 0 of the layout, and the effect is a write of the sum. -/
theorem addRegisterForm : Obligations.AddRegisterForm := by
  refine ⟨fun w h => ?_, fun _ _ _ _ _ => exec_of_effect_eq_write rfl⟩
  obtain ⟨hop, h5⟩ := opcode_and_bit5_of_formMask h
  obtain ⟨haddReg, -⟩ := fieldsSitWhereTheLayoutTableSays w
  exact haddReg hop h5

/-- Settles O13: the match fixes opcode 0001 and bit 5 = 1 of the layout, and the effect is a write of the sum. -/
theorem addImmediateForm : Obligations.AddImmediateForm := by
  refine ⟨fun w h => ?_, fun _ _ _ _ => exec_of_effect_eq_write rfl⟩
  obtain ⟨hop, h5⟩ := opcode_and_bit5_of_formMask h
  obtain ⟨-, haddImm, -⟩ := fieldsSitWhereTheLayoutTableSays w
  exact haddImm hop h5

/-- Settles O14: the match fixes opcode 0101 and bit 5 = 0 of the layout, and the effect is a write of the conjunction. -/
theorem andRegisterForm : Obligations.AndRegisterForm := by
  refine ⟨fun w h => ?_, fun _ _ _ _ _ => exec_of_effect_eq_write rfl⟩
  obtain ⟨hop, h5⟩ := opcode_and_bit5_of_formMask h
  obtain ⟨-, -, handReg, -⟩ := fieldsSitWhereTheLayoutTableSays w
  exact handReg hop h5

/-- Settles O15: the match fixes opcode 0101 and bit 5 = 1 of the layout, and the effect is a write of the conjunction. -/
theorem andImmediateForm : Obligations.AndImmediateForm := by
  refine ⟨fun w h => ?_, fun _ _ _ _ => exec_of_effect_eq_write rfl⟩
  obtain ⟨hop, h5⟩ := opcode_and_bit5_of_formMask h
  obtain ⟨-, -, -, handImm, -⟩ := fieldsSitWhereTheLayoutTableSays w
  exact handImm hop h5

/-- Settles O16: the match fixes opcode 1001, and the effect is a write of the complement. -/
theorem notComplements : Obligations.NotComplements := by
  refine ⟨fun w h => ?_, fun _ _ _ _ => exec_of_effect_eq_write rfl⟩
  obtain ⟨-, -, -, -, hnot, -⟩ := fieldsSitWhereTheLayoutTableSays w
  exact hnot (opcodeOf_of_opcodeMask h)

end Sys2Proof.Machine
end

section
/-! BR (R86): when the branch is taken, and the write to PC. -/

namespace Sys2Proof.Machine

/-- The test on the one-hot code of CC (R20) matches the flag's name against the requested conditions (R86). -/
theorem branchTaken_iff {n z p : Bool} {cc : CondFlag} :
    branchTaken n z p cc = true ↔
      (n = true ∧ cc = .negative) ∨ (z = true ∧ cc = .zero) ∨ (p = true ∧ cc = .positive) := by
  cases cc <;> simp [branchTaken, CondFlag.bits]

theorem exec_br (n z p : Bool) (off : BitVec 9) (s : State) :
    exec (.br n z p off) s =
      .next { s with pc := if branchTaken n z p s.cc then s.pc + sext off else s.pc, fsm := .fetch } :=
  exec_eq_apply _ s

/-- Settles O17: the match fixes opcode 0000 of the layout, and the branch is taken iff the flag is requested. -/
theorem branchTakenIffFlagRequested : Obligations.BranchTakenIffFlagRequested := by
  refine ⟨?decodes, ?taken, ?notTaken⟩
  case decodes =>
    intro w h
    obtain ⟨-, -, -, -, -, hbr, -⟩ := fieldsSitWhereTheLayoutTableSays w
    exact hbr (opcodeOf_of_opcodeMask h)
  case taken =>
    intro n z p off s h
    rw [exec_br, if_pos (branchTaken_iff.mpr h)]
  case notTaken =>
    intro n z p off s h
    rw [exec_br, if_neg (mt branchTaken_iff.mp h)]

end Sys2Proof.Machine
end

section
/-! LD, LDI, LDR and LEA (R88 to R91): the value written to DR and CC, and the pointer that LDI leaves in EA. -/

namespace Sys2Proof.Machine

/-- Settles O18: the match fixes opcode 0010, and the effect is a write of the word at PC + offset. -/
theorem loadPcRelative : Obligations.LoadPcRelative := by
  refine ⟨fun w h => ?_, fun _ _ _ => exec_of_effect_eq_write rfl⟩
  obtain ⟨-, -, -, -, -, -, hld, -⟩ := fieldsSitWhereTheLayoutTableSays w
  exact hld (opcodeOf_of_opcodeMask h)

/-- The next state of LDI: the pointer goes to EA, and the word it points to goes to DR (R89). -/
theorem exec_ldi (dr : RegIdx) (off : BitVec 9) (s : State) :
    exec (.ldi dr off) s = .next { s with
      regs := (s.setReg dr (s.load (s.pointer off))).regs, cc := setcc (s.load (s.pointer off)), ea := s.pointer off,
      fsm := .fetch } :=
  exec_eq_apply _ s

/-- Settles O19: the match fixes opcode 1010, and the pointer and the word it points to are the two reads of the effect. -/
theorem loadIndirectReadsTwice : Obligations.LoadIndirectReadsTwice := by
  refine ⟨fun w h => decode_of_opcode_ldi (opcodeOf_of_opcodeMask h), fun dr off s p v hp hv => ?_⟩
  subst hv hp
  exact exec_ldi dr off s

/-- Settles O20: the match fixes opcode 0110, and the effect is a write of the word at BaseR + offset. -/
theorem loadBaseRelative : Obligations.LoadBaseRelative := by
  refine ⟨fun w h => ?_, fun _ _ _ _ => exec_of_effect_eq_write rfl⟩
  obtain ⟨-, -, -, -, -, -, -, -, hldr, -⟩ := fieldsSitWhereTheLayoutTableSays w
  exact hldr (opcodeOf_of_opcodeMask h)

/-- Settles O21: the match fixes opcode 1110, the effect is a write of the address itself, and its cycle has no request. -/
theorem leaComputesAnAddress : Obligations.LeaComputesAnAddress := by
  refine ⟨?decodes, fun _ _ _ => exec_of_effect_eq_write rfl, ?portIdle⟩
  case decodes =>
    intro w h
    obtain ⟨-, -, -, -, -, -, -, -, -, hlea, -⟩ := fieldsSitWhereTheLayoutTableSays w
    exact hlea (opcodeOf_of_opcodeMask h)
  case portIdle =>
    intro cfg s dr off hf hi
    rw [request_exec cfg hf, hi, State.execRequest]

end Sys2Proof.Machine
end

section
/-! ST, STI and STR (R92 to R94): the word stored, the pointer that STI leaves in EA, and the frame of the three. -/

namespace Sys2Proof.Machine

variable {cfg : Config} {i : Instr} {s : State} {pointer : Option Addr} {a : Addr} {v : Word}

/-- The next state of an instruction whose effect is a store: memory, EA if there is a pointer, and the FSM state (R68). -/
theorem exec_of_effect_eq_store (h : s.effect Config.standard i = .store pointer a v) :
    exec i s = .next { s with mem := Memory.write s.mem a v, ea := pointer.getD s.ea, fsm := .fetch } := by
  rw [exec_eq_apply, h]
  rfl

/-- A store other than STI carries no pointer. -/
theorem pointer_eq_none_of_effect_eq_store (h : s.effect cfg i = .store pointer a v) (hi : ∀ sr off, i ≠ .sti sr off) :
    pointer = none := by
  cases i with
  | st sr off => cases h; rfl
  | sti sr off => exact absurd rfl (hi sr off)
  | str sr b off => cases h; rfl
  | trap g v =>
    simp only [State.effect] at h
    split at h <;> cases h
  | _ => cases h

/-- STI stores through the pointer it leaves in EA. -/
theorem pointer_eq_of_effect_sti {sr : RegIdx} {off : BitVec 9} (h : s.effect cfg (.sti sr off) = .store pointer a v) :
    pointer = some a := by
  cases h
  rfl

/-- The load of a word of the state after a store effect. -/
theorem Effect.load_apply_store (hm : Memory.wf s.mem = true) (pointer : Option Addr) (a c : Addr) (v : Word) :
    ((Effect.store pointer a v).apply s).load c = if c = a then v else s.load c :=
  State.load_store (s := s.latchPointer (pointer.getD s.ea)) hm a c v

/-- Settles O29: the effect is a store of x[SR] at the store address, with a pointer for STI only. -/
theorem storesChangeOnlyTheStoredWord : Obligations.StoresChangeOnlyTheStoredWord := by
  intro i a sr s t hm ha hsr h
  obtain ⟨pointer, he⟩ := effect_eq_store (cfg := Config.standard) ha hsr
  obtain rfl := eq_apply_of_exec h
  rw [he]
  have hload := fun c => Effect.load_apply_store hm pointer a c (s.reg sr)
  refine ⟨(hload a).trans (if_pos rfl), fun c hc => (hload c).trans (if_neg hc), fun _ => rfl, rfl, rfl, rfl, rfl, rfl, rfl,
    rfl, rfl, ?notSti, ?sti⟩
  case notSti =>
    intro hi
    rw [pointer_eq_none_of_effect_eq_store he hi]
    rfl
  case sti =>
    rintro r off rfl
    rw [pointer_eq_of_effect_sti he]
    rfl

/-- Settles O22: the match fixes opcode 0011, and the effect is a store at PC + offset. -/
theorem storePcRelative : Obligations.StorePcRelative := by
  refine ⟨fun w h => ?_, fun _ _ _ => exec_of_effect_eq_store (pointer := none) rfl⟩
  obtain ⟨-, -, -, -, -, -, -, -, -, -, hst, -⟩ := fieldsSitWhereTheLayoutTableSays w
  exact hst (opcodeOf_of_opcodeMask h)

/-- Settles O23: the match fixes opcode 1011, and the effect is a store through the pointer, which goes to EA. -/
theorem storeIndirect : Obligations.StoreIndirect := by
  refine ⟨fun w h => decode_of_opcode_sti (opcodeOf_of_opcodeMask h), ?_⟩
  rintro sr off s p rfl
  exact exec_of_effect_eq_store (pointer := some (s.pointer off)) rfl

/-- Settles O24: the match fixes opcode 0111, and the effect is a store at BaseR + offset. -/
theorem storeBaseRelative : Obligations.StoreBaseRelative := by
  refine ⟨fun w h => ?_, fun _ _ _ _ => exec_of_effect_eq_store (pointer := none) rfl⟩
  obtain ⟨-, -, -, -, -, -, -, -, -, -, -, -, hstr, -⟩ := fieldsSitWhereTheLayoutTableSays w
  exact hstr (opcodeOf_of_opcodeMask h)

end Sys2Proof.Machine
end

section
/-! TRAP (R95, R96): the words by match and mask, and the two ends of the instruction for every HALT_VECTOR. -/

namespace Sys2Proof.Machine

variable {w : Word}

/-- A word agrees with a match in every field that the mask keeps whole. -/
theorem extractLsb'_eq_of_mask {mask m : Word} {start len : Nat} (hmask : mask.extractLsb' start len = BitVec.allOnes len)
    (h : w &&& mask = m) : w.extractLsb' start len = m.extractLsb' start len := by
  rw [← h, BitVec.extractLsb'_and, hmask, BitVec.and_allOnes]

/-- The words 0xFx25, x being the ignored bits 11 to 8, are TRAP with vector 0x25. -/
theorem decode_of_haltMask (h : w &&& 0xF0FF#16 = 0xF025#16) : decode w = .trap (w.extractLsb' 8 4) 0x25#8 := by
  have hop : opcodeOf w = 0b1111#4 := extractLsb'_eq_of_mask (by decide) h
  have hv : w.extractLsb' 0 8 = 0x25#8 := extractLsb'_eq_of_mask (by decide) h
  rw [decode_of_opcode_trap hop, hv]

theorem execWith_trap_haltVector (cfg : Config) (g : BitVec 4) (s : State) :
    execWith cfg (.trap g cfg.haltVector) s = .next s.halt := by
  rw [execWith_eq_apply, effect_eq_halt_iff.mpr ⟨g, rfl⟩]
  rfl

theorem execWith_trap_of_ne {cfg : Config} {v : BitVec 8} (hv : v ≠ cfg.haltVector) (g : BitVec 4) (s : State) :
    execWith cfg (.trap g v) s = .next (s.raise .unimplementedTrap) := by
  rw [execWith_eq_apply, effect_eq_unimplementedTrap_iff.mpr ⟨g, v, rfl, hv⟩]
  rfl

/-- A TRAP enters S_HALT exactly with the halt vector: with any other it enters S_FAULT. -/
theorem fsm_eq_halt_iff_of_execWith_trap {cfg : Config} {g : BitVec 4} {v : BitVec 8} {s t : State}
    (h : execWith cfg (.trap g v) s = .next t) : t.fsm = .halt ↔ v = cfg.haltVector := by
  by_cases hv : v = cfg.haltVector
  · subst hv
    obtain rfl := Host.Outcome.next.inj ((execWith_trap_haltVector cfg g s).symm.trans h)
    exact iff_of_true rfl rfl
  · obtain rfl := Host.Outcome.next.inj ((execWith_trap_of_ne hv g s).symm.trans h)
    exact iff_of_false nofun hv

/-- TRAP makes no access in its S_EXEC cycle. -/
theorem request_exec_trap (cfg : Config) {s : State} (hf : s.fsm = .exec) (hop : opcodeOf s.ir = 0b1111#4) :
    s.request cfg = .idle := by
  rw [request_exec cfg hf, decode_of_opcode_trap hop]
  rfl

/-- Settles O25: the effect of TRAP with the halt vector is a halt, and with another vector it is a fault. -/
theorem trapHalts : Obligations.TrapHalts := by
  refine ⟨execWith_trap_haltVector, ?halts, ?idle, exec_trap_haltVector, ?words, ?stopped⟩
  case halts => exact fun _ _ _ _ _ h => fsm_eq_halt_iff_of_execWith_trap h
  case idle => exact fun cfg _ hf hop => request_exec_trap cfg hf hop
  case words => exact fun _ h => decode_of_haltMask h
  case stopped => exact fun _ hr => stepWith_stopped _ (.inl hr)

/-- Settles O26: the effect of TRAP with another vector is the raise, and an edge without reset keeps a faulted block. -/
theorem trapOtherVectorsFault : Obligations.TrapOtherVectorsFault := by
  refine ⟨?anyParameters, ?default, ?words, rfl, ?held⟩
  case anyParameters => exact fun _ g _ s hv => execWith_trap_of_ne hv g s
  case default => exact fun g _ s hv => exec_trap_of_ne hv g s
  case words => exact fun _ h => decode_of_opcode_trap (opcodeOf_of_opcodeMask h)
  case held => exact fun cfg _ _ hf hrst => clockAll_stopped cfg (.inr hf) hrst

end Sys2Proof.Machine
end

section
/-! The opcodes with no routine (R97 to R101): the range of words of each, the report their effect is, and illop_evt (R78). -/

namespace Sys2Proof.Machine

variable {w : Word} {s : State}

/-- The words of an opcode are a range of 0x1000 words (R51). -/
theorem opcodeOf_of_range {o : BitVec 4} (hlo : o.toNat * 0x1000 ≤ w.toNat) (hhi : w.toNat ≤ o.toNat * 0x1000 + 0xFFF) :
    opcodeOf w = o := by
  apply BitVec.eq_of_toNat_eq
  have ho := o.isLt
  have hquot : w.toNat / 2 ^ 12 = o.toNat := by omega
  rw [opcodeOf, BitVec.extractLsb'_toNat, Nat.shiftRight_eq_div_pow, hquot, Nat.mod_eq_of_lt ho]

theorem decode_of_opcode_without_routine (w : Word) :
    (opcodeOf w = 0b0100#4 → decode w = .invalid0100 (w.extractLsb' 0 12)) ∧
      (opcodeOf w = 0b1000#4 → decode w = .invalid1000 (w.extractLsb' 0 12)) ∧
      (opcodeOf w = 0b1100#4 → decode w = .invalid1100 (w.extractLsb' 0 12)) ∧
      (opcodeOf w = 0b1101#4 → decode w = .invalid1101 (w.extractLsb' 0 12)) := by
  obtain ⟨-, -, -, -, -, -, -, -, -, -, -, -, -, -, hinvalid⟩ := fieldsSitWhereTheLayoutTableSays w
  exact hinvalid

theorem exec_of_isInvalid {i : Instr} (h : i.isInvalid = true) (s : State) :
    exec i s = .next (s.raise .invalidOpcode) := by
  rw [exec_eq_apply, effect_eq_invalidOpcode_iff.mpr h]
  rfl

/-- An invalid word has one of the four opcodes with no routine. -/
theorem opcodeOf_of_invalidWord (h : invalidWord w = true) :
    opcodeOf w = 0b0100#4 ∨ opcodeOf w = 0b1000#4 ∨ opcodeOf w = 0b1100#4 ∨ opcodeOf w = 0b1101#4 := by
  rw [opcodeOf_eq_row]
  rw [invalidWord] at h
  cases hi : decode w with
  | invalid0100 | invalid1000 | invalid1100 | invalid1101 =>
    rw [Instr.row]
    decide
  | _ =>
    rw [hi] at h
    cases h

/-- The decoder raises `ill` in S_EXEC for every invalid word (R73). -/
theorem execSignals_ill_of_invalidWord (cfg : Config) (cc : CondFlag) (h : invalidWord w = true) :
    (execSignals cfg w cc).ill = true := by
  rcases opcodeOf_of_invalidWord h with hop | hop | hop | hop <;> simp [execSignals, hop]

/-- illop_evt is 1 in the S_EXEC cycle of an invalid word (R78). -/
theorem illopEvt_exec_of_invalidWord (cfg : Config) (hf : s.fsm = .exec) (h : invalidWord s.ir = true) :
    (s.outputs cfg .run).illopEvt = true := by
  have hill : (s.signals cfg).ill = true := by
    rw [State.signals, hf]
    exact execSignals_ill_of_invalidWord cfg s.cc h
  simp [State.outputs, State.illopEvt, Inputs.run, hill]

/-- Settles O27: each range is the words of one opcode, and the effect of an invalid instruction is the report. -/
theorem invalidOpcodesAreReportedNoOps : Obligations.InvalidOpcodesAreReportedNoOps := by
  refine ⟨?opcode0100, ?opcode1000, ?opcode1100, ?opcode1101, ?report, ?event⟩
  case opcode0100 =>
    intro w hlo hhi
    obtain ⟨h0100, -⟩ := decode_of_opcode_without_routine w
    exact h0100 (opcodeOf_of_range hlo hhi)
  case opcode1000 =>
    intro w hlo hhi
    obtain ⟨-, h1000, -⟩ := decode_of_opcode_without_routine w
    exact h1000 (opcodeOf_of_range hlo hhi)
  case opcode1100 =>
    intro w hlo hhi
    obtain ⟨-, -, h1100, -⟩ := decode_of_opcode_without_routine w
    exact h1100 (opcodeOf_of_range hlo hhi)
  case opcode1101 =>
    intro w hlo hhi
    obtain ⟨-, -, -, h1101⟩ := decode_of_opcode_without_routine w
    exact h1101 (opcodeOf_of_range hlo hhi)
  case report =>
    intro g s i hi
    have hinvalid : i.isInvalid = true := by fin_cases hi <;> rfl
    exact exec_of_isInvalid hinvalid s
  case event => exact fun cfg s hf h => illopEvt_exec_of_invalidWord cfg hf h

end Sys2Proof.Machine
end

section
/-! Encoding after decoding (R51 to R54, log entry 12): the fields of a word, put together again, are the word. -/

namespace Sys2Proof.Machine

/-- A bit of a word is its field of one bit. -/
theorem ofBool_getLsbD_eq_extractLsb' (w : Word) (k : Nat) : BitVec.ofBool (w.getLsbD k) = w.extractLsb' k 1 := by
  ext j hj
  obtain rfl : j = 0 := by omega
  simp

/-- Settles O3: each opcode and form puts all the fields of the word side by side, and adjacent fields of a word are one field,
up to the whole word. -/
theorem encodeOfDecodeIsIdentity : Obligations.EncodeOfDecodeIsIdentity := by
  intro w
  have hform := ofBool_getLsbD_eq_extractLsb' w 5
  cases h5 : w.getLsbD 5 <;>
    obtain h | (h | h | h) | (h | h | h) | (h | h) | h | (h | h | h | h) | (h | h) := opcode_classes (opcodeOf w)
  all_goals
    simp only [h5, BitVec.ofBool_false, BitVec.ofBool_true, BitVec.ofNat_eq_ofNat] at hform
    simp only [decode, h, h5, encode, BitVec.reduceToNat, if_true, if_false, Bool.false_eq_true]
    simp only [← h, hform, opcodeOf, ofBool_getLsbD_eq_extractLsb']
    simp (disch := decide) only [BitVec.extractLsb'_append_extractLsb'_eq_extractLsb', BitVec.setWidth_eq,
      BitVec.extractLsb'_eq_self]

end Sys2Proof.Machine
end

section
/-! The two conditions over one step (R102 to R105): the step of a word that raises one, and that no other word touches the
report. -/

namespace Sys2Proof.Machine

variable {s : State}

/-- A step at an invalid word makes the report of R104 after the fetch. -/
theorem step_of_invalidWord (hs : s.Ready) (hw : invalidWord (s.load s.pc) = true) :
    step s = .next (s.fetch.raise .invalidOpcode) := by
  rw [step_ready hs, effect_decode_eq_invalidOpcode_iff.mpr hw]
  rfl

/-- A step at a TRAP with another vector makes the report of R105 after the fetch. -/
theorem step_of_faultWord (hs : s.Ready) (hw : faultWord Config.standard (s.load s.pc) = true) :
    step s = .next (s.fetch.raise .unimplementedTrap) := by
  rw [step_ready hs, effect_decode_eq_unimplementedTrap_iff.mpr hw]
  rfl

/-- Only a raised condition writes the report registers. -/
theorem Effect.report_apply {e : Effect} (he : ∀ c, e ≠ .raise c) :
    (e.apply s).xcause = s.xcause ∧ (e.apply s).xinfo = s.xinfo ∧ (e.apply s).illop = s.illop := by
  cases e with
  | raise c => exact absurd rfl (he c)
  | _ => exact ⟨rfl, rfl, rfl⟩

/-- A word that is neither invalid nor a TRAP with another vector raises no condition. -/
theorem effect_decode_ne_raise {cfg : Config} {w : Word} (hinvalid : invalidWord w = false) (hfault : faultWord cfg w = false)
    (c : Condition) : s.effect cfg (decode w) ≠ .raise c := by
  cases c with
  | invalidOpcode => simp [Ne, effect_decode_eq_invalidOpcode_iff, hinvalid]
  | unimplementedTrap => simp [Ne, effect_decode_eq_unimplementedTrap_iff, hfault]

/-- Settles O38: the step is the fetch and the report, and the first edge is the fetch. -/
theorem invalidOpcodeIsReportedAndContinues : Obligations.InvalidOpcodeIsReportedAndContinues := by
  refine fun s hs hw => ⟨step_of_invalidWord hs hw, fun cfg => ?event⟩
  case event =>
    rw [State.clock_run, activeEdge_fetch cfg hs.1]
    exact illopEvt_exec_of_invalidWord cfg rfl hw

/-- Settles O39: the step is the fetch and the report, and it ends in S_FAULT, one of the stopped states. -/
theorem unimplementedTrapIsFatal : Obligations.UnimplementedTrapIsFatal := by
  intro s hs hw
  have hstopped : (s.fetch.raise .unimplementedTrap).fsm = .halt ∨ (s.fetch.raise .unimplementedTrap).fsm = .fault := .inr rfl
  refine ⟨_, step_of_faultWord hs hw, rfl, fun inp => ?outputs, fun inps hrst => ?held⟩
  case outputs =>
    obtain ⟨hre, hwe, -⟩ := outputs_of_idle (portRequest_stopped Config.standard hstopped inp)
    exact ⟨rfl, hre, hwe⟩
  case held => exact clockAll_stopped _ hstopped hrst

/-- Settles O40, by the three kinds of words: those of each condition, and the rest. -/
theorem conditionsRaisedExactlyByTheirWords : Obligations.ConditionsRaisedExactlyByTheirWords := by
  refine ⟨rfl, rfl, rfl, fun s t hs h => ⟨fun hw => ?invalid, fun hw => ?fault, fun hinvalid hfault => ?other⟩⟩
  case invalid =>
    obtain rfl := Host.Outcome.next.inj ((step_of_invalidWord hs hw).symm.trans h)
    exact ⟨rfl, rfl, rfl, rfl, BitVec.add_sub_cancel _ _⟩
  case fault =>
    obtain rfl := Host.Outcome.next.inj ((step_of_faultWord hs hw).symm.trans h)
    exact ⟨rfl, rfl, rfl, rfl, BitVec.add_sub_cancel _ _⟩
  case other =>
    rw [eq_apply_of_step_ready hs h]
    exact Effect.report_apply (effect_decode_ne_raise hinvalid hfault)

/-- Settles O34: an instruction carries out its effect; a step does so too, or is the second access, or changes nothing. -/
theorem everyInstructionAndStepCompletes : Obligations.EveryInstructionAndStepCompletes := by
  refine ⟨fun i s => ⟨_, exec_eq_apply i s⟩, fun s => ?step⟩
  case step =>
    cases hr : s.running with
    | false => exact ⟨s, stepWith_stopped _ (.inl hr)⟩
    | true =>
      cases hf : s.fsm with
      | fetch => exact ⟨_, step_ready ⟨hf, hr⟩⟩
      | exec => exact ⟨_, (stepWith_exec _ hf hr).trans (execWith_eq_apply _ _ _)⟩
      | mem2 => exact ⟨_, stepWith_mem2 _ hf hr⟩
      | halt => exact ⟨s, stepWith_stopped _ (.inr (.inl hf))⟩
      | fault => exact ⟨s, stepWith_stopped _ (.inr (.inr hf))⟩

end Sys2Proof.Machine
end

section
/-! Reset, clock enable and the host's load of PC (R117 to R119). -/

namespace Sys2Proof.Machine

variable {cfg : Config} {s : State} {inp : Inputs}

theorem clock_reset (hrst : inp.rst = true) :
    s.clock cfg inp = s.resetEdge cfg (if inp.pcLoadEn then some inp.pcLoadVal else none) :=
  if_pos hrst

theorem clock_no_reset (hrst : inp.rst = false) : s.clock cfg inp = if inp.ce then s.activeEdge cfg else s := by
  simp [State.clock, hrst]

theorem clock_held (hrst : inp.rst = false) (hce : inp.ce = false) : s.clock cfg inp = s := by
  simp [clock_no_reset hrst, hce]

/-- The PC after an edge with rst = 1 (R119). -/
theorem clock_reset_pc (hrst : inp.rst = true) :
    (s.clock cfg inp).pc = if inp.pcLoadEn then inp.pcLoadVal else cfg.pcReset := by
  rw [clock_reset hrst]
  cases inp.pcLoadEn <;> rfl

/-- Settles O45: the edge gives the reset state with the host's PC or PC_RESET, from which the next cycle is a fetch. -/
theorem resetEdgeSetsEveryRegister : Obligations.ResetEdgeSetsEveryRegister := by
  intro cfg s inp hrst
  obtain ⟨hre, hwe, -⟩ := outputs_of_idle (cfg := cfg) (s := s) (portRequest_idle (.inl hrst))
  refine ⟨?state, hre, hwe, fun inp' hrst' hce' => ?nextCycle⟩
  case state =>
    rw [← clock_reset_pc (s := s) hrst, clock_reset hrst]
    rfl
  case nextCycle =>
    have hfetch : (s.clock cfg inp).fsm = .fetch := by
      rw [clock_reset hrst]
      rfl
    rw [portRequest_active hrst' hce', request_fetch cfg hfetch]

/-- Settles O46: only the edge with rst = 1 looks at pc_load_en and pc_load_val. -/
theorem hostLoadsPcOnlyInReset : Obligations.HostLoadsPcOnlyInReset := by
  refine ⟨fun cfg s inp hrst hload => ?inReset, fun cfg s inp en v hrst => ?running⟩
  case inReset => rw [clock_reset_pc hrst, if_pos hload]
  case running => rw [clock_no_reset hrst, clock_no_reset (inp := { inp with pcLoadEn := en, pcLoadVal := v }) hrst]

/-- Settles O48: the held edge keeps the state, so a sequence of edges goes on from the same state without it. -/
theorem clockEnableStretchesCycles : Obligations.ClockEnableStretchesCycles := by
  refine ⟨fun cfg s inp hrst hce => ?held, fun cfg s inps => ?dropped⟩
  case held =>
    obtain ⟨hre, hwe, -⟩ := outputs_of_idle (cfg := cfg) (s := s) (portRequest_idle (.inr hce))
    refine ⟨clock_held hrst hce, hre, hwe, ?_, ?_⟩
    · simp [State.outputs, State.instrDone, hce]
    · simp [State.outputs, State.illopEvt, hce]
  case dropped =>
    induction inps generalizing s with
    | nil => rfl
    | cons inp inps ih =>
      by_cases hkept : (inp.rst || inp.ce) = true
      · rw [List.filter_cons, if_pos hkept, State.clockAll, State.clockAll, ih]
      · obtain ⟨hrst, hce⟩ : inp.rst = false ∧ inp.ce = false := by simpa using hkept
        rw [List.filter_cons, if_neg hkept, State.clockAll, clock_held hrst hce, ih]

end Sys2Proof.Machine
end

section
/-! The loader (R122, R123): the words of an image's bytes, and where they stand in memory. -/

namespace Sys2Proof.Machine

/-- A word is its high byte before its low byte (R122). -/
theorem append_bytes (w : Word) : w.extractLsb' 8 8 ++ w.extractLsb' 0 8 = w :=
  (BitVec.extractLsb'_append_extractLsb'_eq_extractLsb' rfl).trans BitVec.extractLsb'_eq_self

/-- The bytes of words, high byte first, are the image of these words. -/
theorem imageWords_bytes (ws : List Word) :
    imageWords (ws.flatMap fun w => [w.extractLsb' 8 8, w.extractLsb' 0 8]) = some ws := by
  induction ws with
  | nil => rfl
  | cons w ws ih => simp [imageWords, ih, append_bytes]

/-- Words that do not run past 0xFFFF are placed at consecutive addresses, every other word stays, and LOADER_WRAP plays no
part. -/
theorem placeWords_of_fits (lw : LoaderWrap) {m : Memory} {a : Nat} {ws : List Word} (hm : Memory.wf m = true)
    (hfits : a + ws.length ≤ 65536) :
    ∃ m', placeWords lw m a ws = some m' ∧
      (∀ k (hk : k < ws.length), Memory.read m' (BitVec.ofNat 16 (a + k)) = ws[k]) ∧
      ∀ c : Addr, c.toNat < a ∨ a + ws.length ≤ c.toNat → Memory.read m' c = Memory.read m c := by
  induction ws generalizing m a with
  | nil => exact ⟨m, rfl, nofun, fun _ _ => rfl⟩
  | cons v vs ih =>
    rw [List.length_cons] at hfits
    have ha : a < 65536 := by omega
    have haddr : (BitVec.ofNat 16 a).toNat = a := Nat.mod_eq_of_lt ha
    obtain ⟨m', hplaced, hread, hframe⟩ := ih (a := a + 1) (Memory.wf_write hm (BitVec.ofNat 16 a) v) (by omega)
    refine ⟨m', (if_pos ha).trans hplaced, fun k hk => ?words, fun c hc => ?frame⟩
    case words =>
      cases k with
      | zero =>
        rw [Nat.add_zero, hframe _ (by omega), Memory.read_write hm, if_pos rfl, List.getElem_cons_zero]
      | succ k =>
        have hsum : a + (k + 1) = a + 1 + k := by omega
        rw [hsum]
        exact hread k (Nat.lt_of_succ_lt_succ hk)
    case frame =>
      rw [List.length_cons] at hc
      have hne : c ≠ BitVec.ofNat 16 a := by
        rintro rfl
        omega
      rw [hframe c (by omega), Memory.read_write hm, if_neg hne]

/-- Settles O49: the bytes are the image of the origin and the words, which fit and so are placed from the origin on. -/
theorem loaderPlacesTheImage : Obligations.LoaderPlacesTheImage := by
  intro cfg lw s origin ws hm hfits
  obtain ⟨m, hplaced, hread, hframe⟩ := placeWords_of_fits lw hm hfits
  refine ⟨State.resetEdge { s with mem := m } cfg (some origin), ?boots, fun k hk => ?words, hframe, rfl⟩
  case boots => simp only [State.boot, imageWords_bytes, hplaced]
  case words =>
    have haddr : origin + BitVec.ofNat 16 k = BitVec.ofNat 16 (origin.toNat + k) := by simp [BitVec.ofNat_add]
    rw [haddr]
    exact hread k hk

end Sys2Proof.Machine
end
